-- ==== Sys2Proof/Word.lean ====
section
/-! DEFINITION. Word.lean: the value types of rule R7 (00_scope.md). No value of this block is signed. -/

namespace Sys2Proof

/-- A register or command word: every host access is a whole 32-bit word (R52). -/
abbrev Word := BitVec 32

/-- A byte (R7). -/
abbrev Byte := BitVec 8

/-- A byte sequence (R7): a finite list of bytes, `ε` being `[]`. -/
abbrev Bytes := List Byte

end Sys2Proof
end

