-- ==== Sys2Proof/Machine/Crc.lean ====
section
/-! DEFINITION. Machine/Crc.lean: CRC-32 (IEEE), reflected (42_checksum.md R130). Its parameters are the spec's own, from
general knowledge (D34, G1; log 12). -/

namespace Sys2Proof.Machine

/-- One bit of R130's inner loop. -/
def crcBit (c : Word) : Word :=
  if c.getLsbD 0 then (c >>> 1) ^^^ 0xEDB88320#32 else c >>> 1

/-- Eight rounds of the inner loop (R130). -/
def crcRounds (c : Word) : Word := crcBit (crcBit (crcBit (crcBit (crcBit (crcBit (crcBit (crcBit c)))))))

/-- One byte of R130's outer loop. -/
def crcByte (c : Word) (b : Byte) : Word := crcRounds (c ^^^ b.setWidth 32)

/-- `crc32(x)` (R130). -/
def crc32 (x : Bytes) : Word := x.foldl crcByte 0xFFFFFFFF#32 ^^^ 0xFFFFFFFF#32

end Sys2Proof.Machine
end

