-- ==== Sys2Proof/Config.lean ====
section
/-! DEFINITION. Config.lean: the fixed constants and the parameters of an FRMC instance (00_scope.md R6), and the
one free value of the model, the buffer storage after a reset (10_state.md R34). -/

namespace Sys2Proof.Config

/-- The identification constant (R2, R20): "FRM" and revision 7. -/
def idValue : Word := 0x46524D07#32

/-- Capacity of HDR (R6, R33). -/
abbrev hdrCap : Nat := 16
/-- Capacity of ARG0 and of ARG1 (R6, R33). -/
abbrev argCap : Nat := 32
/-- Required header length (R6). -/
abbrev headerLen : Nat := 10
/-- Bytes of a frame outside its data region (R6): 1+10+1+4+8+10+1. -/
abbrev fixedLen : Nat := 35
/-- Lowest legal marker (R6, R101). -/
abbrev markMin : Nat := 32
/-- Highest legal marker (R6, R101). -/
abbrev markMax : Nat := 126
/-- Greatest payload length ENC accepts (R145). -/
abbrev lengthBound : Nat := 0xFFFFFFFF

/-- The parameters P1 to P3 of an instance (R6). They are carried in State and never change (log 1). -/
structure Params where
  /-- P1, BASE: host bus address of the register window. -/
  base : Nat
  /-- P2, DATA_CAP. -/
  dataCap : Nat
  /-- P3, WIRE_CAP. -/
  wireCap : Nat
  deriving DecidableEq, Repr

/-- The default WIRE_CAP for a given DATA_CAP (R6, P3). -/
def defaultWireCap (dataCap : Nat) : Nat := min (4 * dataCap + 35) (2 ^ 32 - 1)

/-- The ranges R6 gives for P2 and P3. BASE is unconstrained. -/
def Params.legal (p : Params) : Bool :=
  decide (1 ≤ p.dataCap ∧ p.dataCap ≤ 2 ^ 32 - 1 ∧ 35 ≤ p.wireCap ∧ p.wireCap ≤ 2 ^ 32 - 1)

/-- The parameters of `State.reset`: the spec's defaults for P2 and P3 (R6). BASE is OPEN in the spec;
its 0 is a DESIGN CHOICE (log 1, unsafe for a claim that leans on it). -/
def Params.standard : Params := ⟨0, 65536, defaultWireCap 65536⟩

/-- FREE VALUE (R34, I7; log 2): `storeDraw e k i` is the byte at index `i` of buffer `k`'s storage after the `e`-th
reset, as long as nothing has stored there since. It has no body: nothing constrains it. -/
opaque storeDraw : Nat → Nat → Nat → Byte

end Sys2Proof.Config
end

