-- ==== Sys2Proof/Syntax.lean ====
section
/-! DEFINITION. Syntax.lean: the commands of 30_encoding.md, the fields of a command word, why a word is no command,
and the sixteen register slots of 20_memory.md. -/

namespace Sys2Proof

/-- The five buffers (R33, R81). A legal buffer operand is one of these five names (log 13). -/
inductive BufId where
  | hdr | data | wire | arg0 | arg1
  deriving DecidableEq, Repr

/-- The commands, one constructor per row of the opcode table (R82). Operand order is the assembler's,
destination first (R89). -/
inductive Instr where
  /-- no operation (R100) -/
  | nop
  /-- `set_marker` (R101) -/
  | setmk
  /-- `escape` on a buffer (R116) -/
  | esc (dst src : BufId)
  /-- `unescape` on a buffer (R117) -/
  | unesc (dst src : BufId)
  /-- `crc32` of a buffer (R132) -/
  | crc (src : BufId)
  /-- `encode` (R145) -/
  | enc
  /-- `decode` (R150) -/
  | dec
  /-- `validate` (R170) -/
  | val
  deriving DecidableEq, Repr

/-- The fields of a command word (R80). -/
structure CommandFields where
  /-- bits 7:0, the operation -/
  opc : BitVec 8
  /-- bits 11:8, the source buffer id -/
  src : BitVec 4
  /-- bits 15:12, the destination buffer id -/
  dst : BitVec 4
  /-- bits 31:16, reserved, must be 0 -/
  rsv : BitVec 16
  deriving DecidableEq, Repr

/-- Why a command word is illegal: the four conditions of R84. -/
inductive DecodeError where
  /-- (a) OPC is 0x08 to 0xFF -/
  | unknownOpcode
  /-- (b) RSV is not 0 -/
  | reservedBits
  /-- (c) a field the operation does not use is not 0 -/
  | unusedField
  /-- (d) a field the operation uses is 5 to 15 -/
  | bufferId
  deriving DecidableEq, Repr

/-- The register slots of the window, in offset order (R50). -/
inductive Reg where
  | id | ctrl | cmd | status | marker | fMark | fVer | fCrc
  | fLenLo | fLenHi | crcRes | bufSel | bufLen | bufPtr | bufData | reserved
  deriving DecidableEq, Repr

end Sys2Proof
end

