-- ==== Sys2Proof/WellFormed.lean ====
section
/-! DEFINITION. WellFormed.lean: the legality of a command word's fields, condition by condition as 30_encoding.md R84
lists them. It is written without the decoder, so that the two can be held against each other. -/

namespace Sys2Proof.CommandFields

/-- The operations that use SRC (R82): ESC, UNESC, CRC. -/
def usesSrc (f : CommandFields) : Bool := f.opc == 2#8 || f.opc == 3#8 || f.opc == 4#8

/-- The operations that use DST (R82): ESC, UNESC. -/
def usesDst (f : CommandFields) : Bool := f.opc == 2#8 || f.opc == 3#8

/-- Not (a): OPC is in 0x00..0x07. -/
def opcodeKnown (f : CommandFields) : Bool := decide (f.opc.toNat ≤ 7)

/-- Not (b): RSV is 0. -/
def reservedZero (f : CommandFields) : Bool := f.rsv == 0#16

/-- Not (c): every field the operation does not use is 0. -/
def unusedZero (f : CommandFields) : Bool :=
  (f.usesSrc || f.src == 0#4) && (f.usesDst || f.dst == 0#4)

/-- Not (d): every field the operation uses names one of the five buffers. -/
def buffersNamed (f : CommandFields) : Bool :=
  (!f.usesSrc || decide (f.src.toNat ≤ 4)) && (!f.usesDst || decide (f.dst.toNat ≤ 4))

/-- A command word's fields are well formed when none of R84's four conditions holds. -/
def wellFormed (f : CommandFields) : Bool :=
  f.opcodeKnown && f.reservedZero && f.unusedZero && f.buffersNamed

end Sys2Proof.CommandFields
end

