-- ==== Sys2Proof/Decode.lean ====
section
/-! DEFINITION. Decode.lean: the command decoder, total on every 32-bit word (30_encoding.md R80 to R85), then the
encoder and the match and mask of every row (R83). -/

namespace Sys2Proof

/-- The number of a buffer (R33). -/
def BufId.num : BufId → Nat
  | .hdr => 0
  | .data => 1
  | .wire => 2
  | .arg0 => 3
  | .arg1 => 4

/-- The buffer with a given number; 5 and above name none (R33, R35, R81). -/
def BufId.ofNum? : Nat → Option BufId
  | 0 => some .hdr
  | 1 => some .data
  | 2 => some .wire
  | 3 => some .arg0
  | 4 => some .arg1
  | _ => none

/-- The 4-bit operand field that names a buffer (R81). -/
def BufId.field (k : BufId) : BitVec 4 := BitVec.ofNat 4 k.num

/-- The buffer a 4-bit operand field names (R81). -/
def BufId.ofField (f : BitVec 4) : Except DecodeError BufId :=
  match BufId.ofNum? f.toNat with
  | some k => .ok k
  | none => .error .bufferId

/-- The fields of a command word (R80). -/
def fieldsOf (w : Word) : CommandFields :=
  { opc := w.extractLsb' 0 8, src := w.extractLsb' 8 4, dst := w.extractLsb' 12 4, rsv := w.extractLsb' 16 16 }

/-- The command word with given fields, `{RSV, DST, SRC, OPC}` (R80, R89). -/
def wordOf (f : CommandFields) : Word := f.rsv ++ f.dst ++ f.src ++ f.opc

/-- A command with neither operand field: both fields must be 0 (R81). -/
def decodePlain (i : Instr) (f : CommandFields) : Except DecodeError Instr :=
  if f.src = 0#4 ∧ f.dst = 0#4 then .ok i else .error .unusedField

/-- A command with a source only: DST must be 0, SRC must name a buffer (R81). -/
def decodeSource (i : BufId → Instr) (f : CommandFields) : Except DecodeError Instr :=
  if f.dst = 0#4 then (BufId.ofField f.src).map i else .error .unusedField

/-- A command with a destination and a source, both naming a buffer (R81). -/
def decodeTransform (i : BufId → BufId → Instr) (f : CommandFields) : Except DecodeError Instr :=
  match BufId.ofField f.dst, BufId.ofField f.src with
  | .ok d, .ok s => .ok (i d s)
  | _, _ => .error .bufferId

/-- The row of R83 that OPC selects, applied to the operand fields. -/
def decodeRow (f : CommandFields) : Except DecodeError Instr :=
  match f.opc.toNat with
  | 0 => decodePlain .nop f
  | 1 => decodePlain .setmk f
  | 2 => decodeTransform .esc f
  | 3 => decodeTransform .unesc f
  | 4 => decodeSource .crc f
  | 5 => decodePlain .enc f
  | 6 => decodePlain .dec f
  | 7 => decodePlain .val f
  | _ => .error .unknownOpcode

/-- The decoder, in the order of R85: OPC known, RSV zero, unused fields zero, used fields at most 4. -/
def decode (w : Word) : Except DecodeError Instr :=
  let f := fieldsOf w
  if f.opc.toNat ≤ 7 then
    if f.rsv = 0#16 then decodeRow f else .error .reservedBits
  else .error .unknownOpcode

/-- The instruction the decoder reads from the word whose bits are the low `nbits` bits of `w`, bit 0 being the command
word's bit 0. A command is one 32-bit word transferred whole (R52, R80), so a number above that is no command word. -/
def decodeTableWord (nbits w : Nat) : Option Instr :=
  let v := w % 2 ^ nbits
  if v < 2 ^ 32 then
    match decode (BitVec.ofNat 32 v) with
    | .ok i => some i
    | .error _ => none
  else none

/-- OPC of each command (R82). -/
def Instr.opcode : Instr → BitVec 8
  | .nop => 0x00#8
  | .setmk => 0x01#8
  | .esc _ _ => 0x02#8
  | .unesc _ _ => 0x03#8
  | .crc _ => 0x04#8
  | .enc => 0x05#8
  | .dec => 0x06#8
  | .val => 0x07#8

/-- The fields of a command's word; an unused field is 0 (R81, R83, R89). -/
def Instr.fields (i : Instr) : CommandFields :=
  match i with
  | .nop => ⟨i.opcode, 0#4, 0#4, 0#16⟩
  | .setmk => ⟨i.opcode, 0#4, 0#4, 0#16⟩
  | .esc d s => ⟨i.opcode, s.field, d.field, 0#16⟩
  | .unesc d s => ⟨i.opcode, s.field, d.field, 0#16⟩
  | .crc s => ⟨i.opcode, s.field, 0#4, 0#16⟩
  | .enc => ⟨i.opcode, 0#4, 0#4, 0#16⟩
  | .dec => ⟨i.opcode, 0#4, 0#4, 0#16⟩
  | .val => ⟨i.opcode, 0#4, 0#4, 0#16⟩

/-- The encoder: a command's 32-bit word (R83, R89). -/
def encode (i : Instr) : Word := wordOf i.fields

/-- One row of R83's table: its match and its mask. -/
structure OpcodeRow where
  matchBits : Word
  mask : Word
  deriving DecidableEq, Repr

/-- The row of R83 a command belongs to. -/
def Instr.row : Instr → OpcodeRow
  | .nop => ⟨0x00000000#32, 0xFFFFFFFF#32⟩
  | .setmk => ⟨0x00000001#32, 0xFFFFFFFF#32⟩
  | .esc _ _ => ⟨0x00000002#32, 0xFFFF00FF#32⟩
  | .unesc _ _ => ⟨0x00000003#32, 0xFFFF00FF#32⟩
  | .crc _ => ⟨0x00000004#32, 0xFFFFF0FF#32⟩
  | .enc => ⟨0x00000005#32, 0xFFFFFFFF#32⟩
  | .dec => ⟨0x00000006#32, 0xFFFFFFFF#32⟩
  | .val => ⟨0x00000007#32, 0xFFFFFFFF#32⟩

/-- The table of R83, in its order. -/
def opcodeRows : List OpcodeRow :=
  [⟨0x00000000#32, 0xFFFFFFFF#32⟩, ⟨0x00000001#32, 0xFFFFFFFF#32⟩, ⟨0x00000002#32, 0xFFFF00FF#32⟩,
   ⟨0x00000003#32, 0xFFFF00FF#32⟩, ⟨0x00000004#32, 0xFFFFF0FF#32⟩, ⟨0x00000005#32, 0xFFFFFFFF#32⟩,
   ⟨0x00000006#32, 0xFFFFFFFF#32⟩, ⟨0x00000007#32, 0xFFFFFFFF#32⟩]

/-- A word matches a row when its masked bits are the row's match (R83). -/
def OpcodeRow.covers (r : OpcodeRow) (w : Word) : Bool := w &&& r.mask == r.matchBits

end Sys2Proof
end

