-- ==== Sys2Proof/Machine/State.lean ====
section
/-! DEFINITION. Machine/State.lean: the whole architectural state (10_state.md R42), the instance parameters it is for
(00_scope.md R6), the host side as plain data (log 4, log 5), and the state after reset (70_reset_and_hazards.md R230). -/

namespace Sys2Proof.Machine

/-- The status codes (R200). Codes 12 to 15 are never produced (I12), so ERR holds one of these twelve (log 9). -/
inductive Status where
  | ok | configError | headerLengthError | lengthBoundError | incompleteFrameError | markerMismatchError
  | versionRangeError | checksumMismatchError | lengthMismatchError | notConfiguredError | capacityError
  | illegalCommandError
  deriving DecidableEq, Repr

/-- A buffer's storage: (index, byte) cells, indices strictly rising. An index not listed holds no byte the block or the
host has stored since the last reset: what it reads as is the free value of R34 (log 2, log 3). -/
abbrev Memory := List Host.Cell

/-- The canonical form of a storage: indices strictly rising. An unlisted index reads as no stored byte, so no cell can
equal what an unlisted index reads as. -/
def Memory.wf : Memory → Bool
  | [] => true
  | [_] => true
  | (i, _) :: (j, b) :: m => decide (i < j) && Memory.wf ((j, b) :: m)

/-- A buffer: LEN[k] and STORE[k] (R33). -/
structure Buffer where
  len : Nat
  store : Memory
  deriving DecidableEq, Repr

/-- What the host still has to do. `read` and `write` are the two accesses of R52 at a bus address; `poll` is POLL of
R91 (repeat a read until bit 0 of what it returns is 0); `readCount` is DUMP's last part (as many reads as the word the
last read returned says). -/
inductive HostOp where
  | read (addr : Nat)
  | write (addr : Nat) (v : Word)
  | poll (addr : Nat)
  | readCount (addr : Nat)
  deriving DecidableEq, Repr

/-- Who moves at a step: the host (its next operation), the engine (completion, R88), or the reset input (R230). -/
inductive Turn where
  | host | engine | reset
  deriving DecidableEq, Repr

/-- The state. Its fields are those of R42, the instance parameters, and the model's own `epoch`, `hostQueue`, `turns`
and `replies`. -/
structure State where
  /-- BASE, DATA_CAP, WIRE_CAP of this instance (R6); no step changes them (log 1) -/
  params : Config.Params
  /-- the active marker, MARKER[7:0] (R24) -/
  marker : Byte
  /-- STATUS.MKV (R23, R24) -/
  mkv : Bool
  /-- F_MARK[7:0] (R25) -/
  fMark : Byte
  /-- F_VER[7:0] (R26) -/
  fVer : Byte
  /-- F_CRC (R27) -/
  fCrc : Word
  /-- F_LEN, both halves (R28) -/
  fLen : BitVec 64
  /-- CRC_RES (R29) -/
  crcRes : Word
  /-- BUF_SEL[2:0] (R30) -/
  bufSel : BitVec 3
  /-- BUF_PTR (R32) -/
  bufPtr : Word
  /-- buffer 0 (R33) -/
  hdr : Buffer
  /-- buffer 1 (R33) -/
  data : Buffer
  /-- buffer 2 (R33) -/
  wire : Buffer
  /-- buffer 3 (R33) -/
  arg0 : Buffer
  /-- buffer 4 (R33) -/
  arg1 : Buffer
  /-- STATUS.BUSY (R23, R36) -/
  busy : Bool
  /-- PENDING, the command word captured at accept (R36) -/
  pending : Word
  /-- STATUS.DONE (R23) -/
  done : Bool
  /-- STATUS.OVR (R23, R204) -/
  ovr : Bool
  /-- STATUS.HAZ (R23, R204) -/
  haz : Bool
  /-- STATUS.ERR (R23, R200) -/
  err : Status
  /-- the model's own: how many resets there have been, the index of the free storage draw (log 2) -/
  epoch : Nat
  /-- the model's own: the host's operations still to do, oldest first (log 5) -/
  hostQueue : List HostOp
  /-- the model's own: who moves at the next steps (log 4) -/
  turns : List Turn
  /-- the model's own: the words host reads have returned, newest first (log 5) -/
  replies : List Word
  deriving DecidableEq, Repr

/-- Why the machine would stop with a fault. No constructor: the block has no trap and no access that stops it (R53,
R206), so no step raises one. -/
inductive Fault where
  deriving DecidableEq, Repr

/-- Why an instruction would have no meaning. -/
inductive Refusal where
  /-- Raised only by an arm of `exec` whose instruction has no meaning yet; none is left. Safe: the model would stop
  where the hardware goes on. -/
  | notModelled (mnemonic : String)
  deriving DecidableEq, Repr

/-- A buffer right after reset: LEN = 0 (R33), storage any value (R34). -/
def Buffer.reset : Buffer := ⟨0, []⟩

/-- The machine right after a reset of the instance `p` (R230): every register 0, no marker, every LEN 0, nothing in
flight. `pending` = 0 is a DESIGN CHOICE (log 6): with BUSY = 0 it holds no command (R36). -/
def State.afterReset (p : Config.Params) (epoch : Nat) : State :=
  { params := p, marker := 0#8, mkv := false, fMark := 0#8, fVer := 0#8, fCrc := 0#32, fLen := 0#64, crcRes := 0#32,
    bufSel := 0#3, bufPtr := 0#32, hdr := Buffer.reset, data := Buffer.reset, wire := Buffer.reset,
    arg0 := Buffer.reset, arg1 := Buffer.reset, busy := false, pending := 0#32, done := false, ovr := false,
    haz := false, err := .ok, epoch := epoch, hostQueue := [], turns := [], replies := [] }

/-- The machine right after reset (R230), for the spec's default capacities (R6), with a host that does nothing. -/
def State.reset : State := State.afterReset Config.Params.standard 0

end Sys2Proof.Machine
end

