-- ==== Sys2Proof/Machine/Flags.lean ====
section
/-! DEFINITION. Machine/Flags.lean: the STATUS word and everything that writes its bits (10_state.md R23, 60_exceptions.md
R200, R204). -/

namespace Sys2Proof.Machine

/-- The 4-bit code of a status (R200). -/
def Status.code : Status → BitVec 4
  | .ok => 0#4
  | .configError => 1#4
  | .headerLengthError => 2#4
  | .lengthBoundError => 3#4
  | .incompleteFrameError => 4#4
  | .markerMismatchError => 5#4
  | .versionRangeError => 6#4
  | .checksumMismatchError => 7#4
  | .lengthMismatchError => 8#4
  | .notConfiguredError => 9#4
  | .capacityError => 10#4
  | .illegalCommandError => 11#4

/-- A flag as a one-bit field. -/
def bit (b : Bool) : BitVec 1 := BitVec.ofBool b

/-- The STATUS word (R23): ERR in 11:8, then MKV, HAZ, OVR, DONE, BUSY in 4:0; 7:5 and 31:12 read 0. -/
def State.statusWord (s : State) : Word :=
  0#20 ++ s.err.code ++ 0#3 ++ bit s.mkv ++ bit s.haz ++ bit s.ovr ++ bit s.done ++ bit s.busy

/-- A host write to STATUS (R23): writing 1 clears DONE, OVR or HAZ; nothing else is written. -/
def statusWrite (v : Word) (s : State) : State :=
  { s with done := s.done && !v.getLsbD 1, ovr := s.ovr && !v.getLsbD 2, haz := s.haz && !v.getLsbD 3 }

/-- The end of a command (R88): ERR takes its code, BUSY falls, DONE rises. OVR and HAZ are not touched. -/
def State.finish (s : State) (code : Status) : State := { s with err := code, busy := false, done := true }

/-- The start of a command (R87): the word is captured, BUSY rises, DONE and ERR are cleared. -/
def State.accept (s : State) (w : Word) : State :=
  { s with pending := w, busy := true, done := false, err := .ok }

/-- A write dropped because a command is in flight: STATUS.OVR (R57, R204). -/
def State.setOvr (s : State) : State := { s with ovr := true }

/-- An operand write dropped because a command is in flight: STATUS.HAZ (R57, R204). -/
def State.setHaz (s : State) : State := { s with haz := true }

end Sys2Proof.Machine
end

