-- ==== Sys2Proof/Machine/Operands.lean ====
section
/-! DEFINITION. Machine/Operands.lean: the operands of commands and of the buffer port: buffers by name, their capacity,
content and storage (10_state.md R33 to R35), and `setbuf` (00_scope.md R9). -/

namespace Sys2Proof.Machine

/-- The stored byte at an index, or none where nothing has been stored since the last reset. -/
def Memory.read : Memory → Nat → Option Byte
  | [], _ => none
  | (i, b) :: m, j => if i = j then some b else Memory.read m j

/-- Storing one byte; the cells stay in rising order. -/
def Memory.write : Memory → Nat → Byte → Memory
  | [], j, v => [(j, v)]
  | (i, b) :: m, j, v =>
    if j < i then (j, v) :: (i, b) :: m
    else if i = j then (j, v) :: m
    else (i, b) :: Memory.write m j v

/-- The bytes of a sequence as cells, the first at index `i`. -/
def cellsFrom : Nat → Bytes → Memory
  | _, [] => []
  | i, b :: x => (i, b) :: cellsFrom (i + 1) x

/-- Storing a sequence at indices 0 to |x| − 1; every other index keeps its byte (R9). -/
def Memory.overwrite (m : Memory) (x : Bytes) : Memory :=
  cellsFrom 0 x ++ m.filter (fun c => decide (x.length ≤ c.1))

/-- The buffer of a name (R33). -/
def State.buf (s : State) : BufId → Buffer
  | .hdr => s.hdr
  | .data => s.data
  | .wire => s.wire
  | .arg0 => s.arg0
  | .arg1 => s.arg1

/-- The state with one buffer replaced. -/
def State.withBuf (s : State) (k : BufId) (b : Buffer) : State :=
  match k with
  | .hdr => { s with hdr := b }
  | .data => { s with data := b }
  | .wire => { s with wire := b }
  | .arg0 => { s with arg0 := b }
  | .arg1 => { s with arg1 := b }

/-- CAP[k] (R6, R33). -/
def State.cap (s : State) : BufId → Nat
  | .hdr => Config.hdrCap
  | .data => s.params.dataCap
  | .wire => s.params.wireCap
  | .arg0 => Config.argCap
  | .arg1 => Config.argCap

/-- STORE[k][i] (R33): the stored byte, or the free byte of the last reset where nothing has been stored (R34; log 2). -/
def State.storeByte (s : State) (k : BufId) (i : Nat) : Byte :=
  match (s.buf k).store.read i with
  | some b => b
  | none => Config.storeDraw s.epoch k.num i

/-- `buf[k]` (R9, R33): the first LEN[k] bytes of the storage. -/
def State.content (s : State) (k : BufId) : Bytes :=
  (List.range (s.buf k).len).map (s.storeByte k)

/-- `setbuf(k, x)` (R9): LEN[k] becomes |x|, the first |x| bytes of the storage become `x`, the rest stays. -/
def State.setBuf (s : State) (k : BufId) (x : Bytes) : State :=
  s.withBuf k ⟨x.length, (s.buf k).store.overwrite x⟩

/-- The buffer BUF_SEL selects; ids 5 to 7 select none (R30, R35). -/
def State.selected (s : State) : Option BufId := BufId.ofNum? s.bufSel.toNat

end Sys2Proof.Machine
end

