-- ==== Sys2Proof/Machine/Ops.lean ====
section
/-! DEFINITION. Machine/Ops.lean: the named operations the commands and the register window share: `raise` and `complete`
(00_scope.md R9, 60_exceptions.md R201), the accept of a command (30_encoding.md R87), the buffer port (20_memory.md R55,
R56; 10_state.md R31) and reset (70_reset_and_hazards.md R230, R231). -/

namespace Sys2Proof.Machine

/-- What a command's meaning answers. -/
abbrev Answer := Host.Outcome State Fault Refusal

/-- `raise <Status>` (R9, R201, R206): the block's one way of reporting an error. The command ends with the code, and
nothing but STATUS changes. -/
def raise (code : Status) (s : State) : Answer := .next (s.finish code)

/-- `complete(OK)` (R9, R88): the command ends with code 0, after its outputs `s` have been written. -/
def complete (s : State) : Answer := .next (s.finish .ok)

/-- The host's acknowledgement of a completion (R207): writing 1 to STATUS.DONE. It is the nearest thing the block has to
a return from an exception; the next accept clears DONE and ERR as well (R87). -/
def acknowledge (s : State) : State := statusWrite 0x2#32 s

/-- The marker configuration SETMK leaves (R101): MARKER is the byte, MKV is 1. -/
def State.setMarker (s : State) (v : Byte) : State := { s with marker := v, mkv := true }

/-- CRC_RES written (R132). -/
def State.setCrcRes (s : State) (v : Word) : State := { s with crcRes := v }

/-- Writing a command's result to a buffer, if it fits: `if |o| > CAP[DST] then raise CapacityError; setbuf(DST, o);
complete(OK)` (R116, R117, R145). -/
def storeResult (k : BufId) (o : Bytes) (s : State) : Answer :=
  if o.length > s.cap k then raise .capacityError s else complete (s.setBuf k o)

/-- A write to CMD (R87): dropped with OVR while a command is in flight, otherwise accepted. -/
def cmdWrite (w : Word) (s : State) : State := if s.busy then s.setOvr else s.accept w

/-- BUF_PTR steps on, mod 2^32 (R32, R55, R56). -/
def State.advancePtr (s : State) : State := { s with bufPtr := s.bufPtr + 1#32 }

/-- A read of BUF_DATA (R55): the byte at BUF_PTR, or 0 past the capacity or with a reserved buffer id (R35); BUF_PTR
steps on. -/
def bufDataRead (s : State) : Word × State :=
  match s.selected with
  | some k => (if s.bufPtr.toNat < s.cap k then (s.storeByte k s.bufPtr.toNat).setWidth 32 else 0#32, s.advancePtr)
  | none => (0#32, s.advancePtr)

/-- A write of BUF_DATA (R56): bits 7:0 are stored at BUF_PTR unless that is past the capacity or the buffer id is reserved
(R35); BUF_PTR steps on; LEN stays. -/
def bufDataWrite (v : Word) (s : State) : State :=
  match s.selected with
  | some k =>
    if s.bufPtr.toNat < s.cap k then
      (s.withBuf k { s.buf k with store := (s.buf k).store.write s.bufPtr.toNat (v.setWidth 8) }).advancePtr
    else s.advancePtr
  | none => s.advancePtr

/-- A read of BUF_LEN (R31, R35): LEN[BUF_SEL]. -/
def bufLenRead (s : State) : Word :=
  match s.selected with
  | some k => BitVec.ofNat 32 (s.buf k).len
  | none => 0#32

/-- A write of BUF_LEN (R31, R35): LEN[BUF_SEL] becomes min(v, CAP); no storage byte changes. -/
def bufLenWrite (v : Word) (s : State) : State :=
  match s.selected with
  | some k => s.withBuf k { s.buf k with len := min v.toNat (s.cap k) }
  | none => s

/-- A reset, by the reset input (R230) or by CTRL.SRST (R231), at any time: a command in flight is abandoned (R232) and the
storage is drawn anew (R34, log 2). The instance's parameters stay, and so does the host, which is another agent (log 7). -/
def State.resetBlock (s : State) : State :=
  { State.afterReset s.params (s.epoch + 1) with hostQueue := s.hostQueue, turns := s.turns, replies := s.replies }

/-- A write to CTRL (R21, R231): bit 0 set resets the block; the other bits are reserved. -/
def ctrlWrite (v : Word) (s : State) : State := if v.getLsbD 0 then s.resetBlock else s

end Sys2Proof.Machine
end

