-- ==== Sys2Proof/Machine/Checksum.lean ====
section
/-! DEFINITION. Machine/Checksum.lean: CRC (42_checksum.md R132). -/

namespace Sys2Proof.Machine

/-- CRC (R132): it writes CRC_RES only and cannot fail. -/
def execCrc (src : BufId) (s : State) : Answer := complete (s.setCrcRes (crc32 (s.content src)))

end Sys2Proof.Machine
end

