-- ==== Sys2Proof/Machine/Control.lean ====
section
/-! DEFINITION. Machine/Control.lean: NOP and SETMK (40_control_config.md), and the illegal command word (30_encoding.md
R84). -/

namespace Sys2Proof.Machine

/-- NOP (R100). -/
def execNop (s : State) : Answer := complete s

/-- SETMK (R101): the candidate is buf[ARG0]; length is checked first, then the range. -/
def execSetmk (s : State) : Answer :=
  match s.content .arg0 with
  | [v] =>
    if v.toNat < Config.markMin ∨ v.toNat > Config.markMax then raise .configError s
    else complete (s.setMarker v)
  | _ => raise .configError s

/-- An illegal command word (R84): it commits nothing and ends with IllegalCommandError. -/
def execIllegal (s : State) : Answer := raise .illegalCommandError s

end Sys2Proof.Machine
end

