-- ==== Sys2Proof/Machine/Transform.lean ====
section
/-! DEFINITION. Machine/Transform.lean: the escape transform (41_escape.md R110, R111) and the frame escape
(43_frame_codec.md R141, R142), as pure total functions. -/

namespace Sys2Proof.Machine

/-- The scan of R110 for a non-empty `S`: `skip` bytes of the current match are still to be passed over. At a position
where `S` stands next, `R` is emitted and the match is skipped; elsewhere the byte itself is emitted. -/
def escapeScan (S R : Bytes) : Nat → Bytes → Bytes
  | _, [] => []
  | skip + 1, _ :: rest => escapeScan S R skip rest
  | 0, b :: rest =>
    if S.isPrefixOf (b :: rest) then R ++ escapeScan S R (S.length - 1) rest else b :: escapeScan S R 0 rest

/-- `escape(d, S, R)` (R110). With an empty `S` or `R` it returns `d` unchanged. -/
def escape (d S R : Bytes) : Bytes :=
  if S.isEmpty || R.isEmpty then d else escapeScan S R 0 d

/-- `unescape(d, S, R)` (R111): the transform with the two sequences exchanged. -/
def unescape (d S R : Bytes) : Bytes := escape d R S

/-- How many matches the scan of R110 makes (`m` of R112). -/
def matchCount (S : Bytes) : Nat → Bytes → Nat
  | _, [] => 0
  | skip + 1, _ :: rest => matchCount S skip rest
  | 0, b :: rest =>
    if S.isPrefixOf (b :: rest) then 1 + matchCount S (S.length - 1) rest else matchCount S 0 rest

/-- R110's loop as the spec writes it, over an index `i` and an output `o`, for at most `fuel` rounds. It is not what the
commands run; a statement says that it gives what `escape` gives. -/
def escapeLoop (d S R : Bytes) : Nat → Nat → Bytes → Bytes
  | 0, _, o => o
  | fuel + 1, i, o =>
    if i < d.length then
      if i + S.length ≤ d.length ∧ (d.drop i).take S.length = S then
        escapeLoop d S R fuel (i + S.length) (o ++ R)
      else escapeLoop d S R fuel (i + 1) (o ++ [d.getD i 0#8])
    else o

/-- `fesc(P, M, H)` (R141): every marker byte doubled, then every header occurrence doubled. -/
def fesc (p : Bytes) (m : Byte) (h : Bytes) : Bytes := escape (escape p [m] [m, m]) h (h ++ h)

/-- `funesc(X, M, H)` (R142): the two undone in the opposite order. -/
def funesc (x : Bytes) (m : Byte) (h : Bytes) : Bytes := unescape (unescape x h (h ++ h)) [m] [m, m]

end Sys2Proof.Machine
end

