-- ==== Sys2Proof/Machine/Escape.lean ====
section
/-! DEFINITION. Machine/Escape.lean: ESC and UNESC (41_escape.md R116, R117). All inputs are read before the output is
written, so any aliasing of SRC, DST, ARG0 and ARG1 is allowed (D22). -/

namespace Sys2Proof.Machine

/-- ESC (R116). -/
def execEsc (dst src : BufId) (s : State) : Answer :=
  storeResult dst (escape (s.content src) (s.content .arg0) (s.content .arg1)) s

/-- UNESC (R117). -/
def execUnesc (dst src : BufId) (s : State) : Answer :=
  storeResult dst (unescape (s.content src) (s.content .arg0) (s.content .arg1)) s

end Sys2Proof.Machine
end

