-- ==== Sys2Proof/Machine/Bytes.lean ====
section
/-! DEFINITION. Machine/Bytes.lean: the big-endian conversions of 00_scope.md R8, which the wire format uses (20_memory.md
R60). -/

namespace Sys2Proof.Machine

/-- `be32` (R8): the four bytes of a 32-bit value, most significant first. -/
def be32 (v : Word) : Bytes :=
  [v.extractLsb' 24 8, v.extractLsb' 16 8, v.extractLsb' 8 8, v.extractLsb' 0 8]

/-- `be64` (R8): the eight bytes of a 64-bit value, most significant first. -/
def be64 (v : BitVec 64) : Bytes :=
  [v.extractLsb' 56 8, v.extractLsb' 48 8, v.extractLsb' 40 8, v.extractLsb' 32 8,
   v.extractLsb' 24 8, v.extractLsb' 16 8, v.extractLsb' 8 8, v.extractLsb' 0 8]

/-- `from_be` (R8): the value of a byte sequence read most significant byte first. -/
def fromBe (x : Bytes) : Nat := x.foldl (fun acc b => acc * 256 + b.toNat) 0

end Sys2Proof.Machine
end

