-- ==== Sys2Proof/Machine/Frame.lean ====
section
/-! DEFINITION. Machine/Frame.lean: the wire layout and the frame codec commands ENC and DEC (43_frame_codec.md R140,
R145, R150). -/

namespace Sys2Proof.Machine

/-- An encoded frame (R140) with marker `m`, header `h`, version `v`, checksum `c`, length field `n` and data region `x`. -/
def frameBytes (m : Byte) (h : Bytes) (v : Byte) (c : Word) (n : BitVec 64) (x : Bytes) : Bytes :=
  [m] ++ h ++ [v] ++ be32 c ++ be64 n ++ x ++ h ++ [m]

/-- The frame ENC builds for payload `p` (R145). -/
def encodeFrame (m : Byte) (h : Bytes) (v : Byte) (p : Bytes) : Bytes :=
  frameBytes m h v (crc32 p) (BitVec.ofNat 64 p.length) (fesc p m h)

/-- ENC (R145); the checks are in the order of R202. The length bound cannot be exceeded at a legal DATA_CAP (I15; log 14). -/
def execEnc (s : State) : Answer :=
  if s.mkv = false then raise .notConfiguredError s
  else if (s.content .hdr).length ≠ Config.headerLen then raise .headerLengthError s
  else if (s.content .data).length > Config.lengthBound then raise .lengthBoundError s
  else storeResult .wire (encodeFrame s.marker (s.content .hdr) s.fVer (s.content .data)) s

/-- The slice `w[i..j)` (R7). -/
def slice (w : Bytes) (i j : Nat) : Bytes := (w.drop i).take (j - i)

/-- The leading mark of a frame, `W[0]` (R150). -/
def frameMark (w : Bytes) : Byte := w.getD 0 0#8
/-- The leading header of a frame, `W[1..11)` (R150). -/
def frameHeader (w : Bytes) : Bytes := slice w 1 11
/-- The version of a frame, `W[11]` (R150). -/
def frameVersion (w : Bytes) : Byte := w.getD 11 0#8
/-- The checksum field of a frame, `from_be(W[12..16))` (R150). -/
def frameChecksum (w : Bytes) : Word := BitVec.ofNat 32 (fromBe (slice w 12 16))
/-- The length field of a frame, `from_be(W[16..24))` (R150). -/
def frameLength (w : Bytes) : BitVec 64 := BitVec.ofNat 64 (fromBe (slice w 16 24))
/-- The data region of a frame, `W[24..n−11)`, found by position (R150, R152). -/
def frameRegion (w : Bytes) : Bytes := slice w 24 (w.length - 11)

/-- The unescaped data of a frame, with the configured marker and the parsed leading header (R150, D15). -/
def frameData (w : Bytes) (m : Byte) : Bytes := funesc (frameRegion w) m (frameHeader w)

/-- The frame field registers and buffers as DEC writes them (R150). -/
def State.writeFrame (s : State) (w : Bytes) (d : Bytes) : State :=
  { (s.setBuf .hdr (frameHeader w)).setBuf .data d with
    fMark := frameMark w, fVer := frameVersion w, fCrc := frameChecksum w, fLen := frameLength w }

/-- DEC (R150); the trailing header and mark are not read (R151). -/
def execDec (s : State) : Answer :=
  if s.mkv = false then raise .notConfiguredError s
  else if (s.content .wire).length < Config.fixedLen then raise .incompleteFrameError s
  else if (frameData (s.content .wire) s.marker).length > s.cap .data then raise .capacityError s
  else complete (s.writeFrame (s.content .wire) (frameData (s.content .wire) s.marker))

end Sys2Proof.Machine
end

