-- ==== Sys2Proof/Machine/Validator.lean ====
section
/-! DEFINITION. Machine/Validator.lean: VAL (44_validator.md R170). -/

namespace Sys2Proof.Machine

/-- VAL (R170): the configuration, then the five checks in the document's order; the first that fails is reported, and
nothing but STATUS is written. -/
def execVal (s : State) : Answer :=
  if s.mkv = false then raise .notConfiguredError s
  else if s.fMark ≠ s.marker then raise .markerMismatchError s
  else if s.hdr.len ≠ Config.headerLen then raise .headerLengthError s
  else if ¬ (1 ≤ s.fVer.toNat ∧ s.fVer.toNat ≤ 255) then raise .versionRangeError s
  else if crc32 (s.content .data) ≠ s.fCrc then raise .checksumMismatchError s
  else if BitVec.ofNat 64 s.data.len ≠ s.fLen then raise .lengthMismatchError s
  else complete s

end Sys2Proof.Machine
end

