-- ==== Sys2Proof/Machine/Dispatch.lean ====
section
/-! DEFINITION. Machine/Dispatch.lean: the meaning of every command, one arm per row of the opcode table (30_encoding.md
R82). -/

namespace Sys2Proof.Machine

def exec (i : Instr) (s : State) : Host.Outcome State Fault Refusal :=
  match i with
  | .nop => Sys2Proof.Machine.execNop s
  | .setmk => Sys2Proof.Machine.execSetmk s
  | .esc dst src => Sys2Proof.Machine.execEsc dst src s
  | .unesc dst src => Sys2Proof.Machine.execUnesc dst src s
  | .crc src => Sys2Proof.Machine.execCrc src s
  | .enc => Sys2Proof.Machine.execEnc s
  | .dec => Sys2Proof.Machine.execDec s
  | .val => Sys2Proof.Machine.execVal s

end Sys2Proof.Machine
end

