-- ==== Sys2Proof/Machine/HostPort.lean ====
section
/-! DEFINITION. Machine/HostPort.lean: the register window as the host sees it (20_memory.md R50 to R57), the host's
operations, and who moves at a step (30_encoding.md R88, log 4). -/

namespace Sys2Proof.Machine

/-- The slot with a given number, `offset[5:2]` (R50, R51). -/
def Reg.ofSlot : Nat → Reg
  | 0 => .id
  | 1 => .ctrl
  | 2 => .cmd
  | 3 => .status
  | 4 => .marker
  | 5 => .fMark
  | 6 => .fVer
  | 7 => .fCrc
  | 8 => .fLenLo
  | 9 => .fLenHi
  | 10 => .crcRes
  | 11 => .bufSel
  | 12 => .bufLen
  | 13 => .bufPtr
  | 14 => .bufData
  | _ => .reserved

/-- The offset of a register in the window (R50). -/
def Reg.offset : Reg → Nat
  | .id => 0x00
  | .ctrl => 0x04
  | .cmd => 0x08
  | .status => 0x0C
  | .marker => 0x10
  | .fMark => 0x14
  | .fVer => 0x18
  | .fCrc => 0x1C
  | .fLenLo => 0x20
  | .fLenHi => 0x24
  | .crcRes => 0x28
  | .bufSel => 0x2C
  | .bufLen => 0x30
  | .bufPtr => 0x34
  | .bufData => 0x38
  | .reserved => 0x3C

/-- Address decode (R51): bits 5:2 of A − BASE. The platform has already chosen the block for this access, so no address is
an error here (log 8). -/
def Reg.at (base addr : Nat) : Reg :=
  Reg.ofSlot ((((addr : Int) - (base : Int)) % 64).toNat / 4)

/-- A read outside lockout (R20 to R32, R53). Only BUF_DATA's has an effect (R54). -/
def idleRead (r : Reg) (s : State) : Word × State :=
  match r with
  | .id => (Config.idValue, s)
  | .ctrl => (0#32, s)
  | .cmd => (0#32, s)
  | .status => (s.statusWord, s)
  | .marker => (s.marker.setWidth 32, s)
  | .fMark => (s.fMark.setWidth 32, s)
  | .fVer => (s.fVer.setWidth 32, s)
  | .fCrc => (s.fCrc, s)
  | .fLenLo => (s.fLen.extractLsb' 0 32, s)
  | .fLenHi => (s.fLen.extractLsb' 32 32, s)
  | .crcRes => (s.crcRes, s)
  | .bufSel => (s.bufSel.setWidth 32, s)
  | .bufLen => (bufLenRead s, s)
  | .bufPtr => (s.bufPtr, s)
  | .bufData => bufDataRead s
  | .reserved => (0#32, s)

/-- A read during lockout (R57): ID and STATUS as usual, every other offset 0 with no side effect. -/
def lockedRead (r : Reg) (s : State) : Word × State :=
  match r with
  | .id => (Config.idValue, s)
  | .status => (s.statusWord, s)
  | _ => (0#32, s)

/-- `MemRead` of a slot (R52, R57). -/
def readReg (r : Reg) (s : State) : Word × State := if s.busy then lockedRead r s else idleRead r s

/-- A write outside lockout (R21 to R32, R53): reserved bits, read-only registers and offset 0x3C ignore it. -/
def idleWrite (r : Reg) (v : Word) (s : State) : State :=
  match r with
  | .id => s
  | .ctrl => ctrlWrite v s
  | .cmd => cmdWrite v s
  | .status => statusWrite v s
  | .marker => s
  | .fMark => { s with fMark := v.setWidth 8 }
  | .fVer => { s with fVer := v.setWidth 8 }
  | .fCrc => { s with fCrc := v }
  | .fLenLo => { s with fLen := s.fLen.extractLsb' 32 32 ++ v }
  | .fLenHi => { s with fLen := v ++ s.fLen.extractLsb' 0 32 }
  | .crcRes => s
  | .bufSel => { s with bufSel := v.setWidth 3 }
  | .bufLen => bufLenWrite v s
  | .bufPtr => { s with bufPtr := v }
  | .bufData => bufDataWrite v s
  | .reserved => s

/-- A write during lockout (R57): CTRL and STATUS act, CMD is dropped and sets OVR, the operand registers and the buffer
port are dropped and set HAZ, the read-only registers and 0x3C ignore it as always. -/
def lockedWrite (r : Reg) (v : Word) (s : State) : State :=
  match r with
  | .id => s
  | .ctrl => ctrlWrite v s
  | .cmd => cmdWrite v s
  | .status => statusWrite v s
  | .marker => s
  | .fMark => s.setHaz
  | .fVer => s.setHaz
  | .fCrc => s.setHaz
  | .fLenLo => s.setHaz
  | .fLenHi => s.setHaz
  | .crcRes => s
  | .bufSel => s.setHaz
  | .bufLen => s.setHaz
  | .bufPtr => s.setHaz
  | .bufData => s.setHaz
  | .reserved => s

/-- `MemWrite` of a slot (R52, R57). -/
def writeReg (r : Reg) (v : Word) (s : State) : State := if s.busy then lockedWrite r v s else idleWrite r v s

/-- The host with its remaining operations replaced. -/
def State.withQueue (s : State) (q : List HostOp) : State := { s with hostQueue := q }

/-- The host is handed the word its read returned. -/
def State.reply (s : State) (v : Word) : State := { s with replies := v :: s.replies }

/-- A host read at a bus address: the word it returns is handed to the host (R52, R61). -/
def hostRead (addr : Nat) (s : State) : State :=
  let r := readReg (Reg.at s.params.base addr) s
  r.2.reply r.1

/-- A host write at a bus address (R52, R61). -/
def hostWrite (addr : Nat) (v : Word) (s : State) : State := writeReg (Reg.at s.params.base addr) v s

/-- One round of POLL (R91): a read, done again as long as bit 0 of what it returns is 1. -/
def hostPoll (addr : Nat) (s : State) : State :=
  let r := readReg (Reg.at s.params.base addr) s
  if r.1.getLsbD 0 then (r.2.reply r.1).withQueue (.poll addr :: r.2.hostQueue) else r.2.reply r.1

/-- DUMP's count (R91): the host goes on with as many reads as the word its last read returned. It is no access. -/
def hostReadCount (addr : Nat) (s : State) : State :=
  s.withQueue (List.replicate (s.replies.headD 0#32).toNat (.read addr) ++ s.hostQueue)

/-- One operation of the host. -/
def hostDo (op : HostOp) (s : State) : State :=
  match op with
  | .read a => hostRead a s
  | .write a v => hostWrite a v s
  | .poll a => hostPoll a s
  | .readCount a => hostReadCount a s

/-- The host's move: its next operation, or nothing when it has none left (R61). -/
def hostMove (s : State) : State :=
  match s.hostQueue with
  | [] => s
  | op :: rest => hostDo op (s.withQueue rest)

/-- Who moves next: what `turns` says, and where it says nothing, the engine while a command is in flight, else the host
(R88, R240; log 4). -/
def State.nextTurn (s : State) : Turn :=
  match s.turns with
  | [] => if s.busy then .engine else .host
  | t :: _ => t

/-- The state with the turn that is being taken used up. -/
def State.takeTurn (s : State) : State := { s with turns := s.turns.tail }

end Sys2Proof.Machine
end

