-- ==== Sys2Proof/Machine/Step.lean ====
section
/-! DEFINITION. Machine/Step.lean: one step of the machine (20_memory.md R61, R62; 30_encoding.md R88): a host access, a
completion, or a reset. -/

namespace Sys2Proof.Machine

/-- `Execute(PENDING)` and the completion around it (R88): an illegal word is refused by code 11 (R84), a legal one runs its
meaning, which ends in `raise` or `complete`. -/
def runPending (s : State) : Host.Outcome State Fault Refusal :=
  match decode s.pending with
  | .ok i => exec i s
  | .error _ => execIllegal s

/-- The engine's move: while BUSY = 1 it performs PENDING; otherwise there is nothing to do (R88). -/
def engineMove (s : State) : Host.Outcome State Fault Refusal :=
  if s.busy then runPending s else .next s

/-- One step: the agent whose turn it is moves. -/
def step (s : State) : Host.Outcome State Fault Refusal :=
  match s.nextTurn with
  | .host => .next (hostMove s.takeTurn)
  | .engine => engineMove s.takeTurn
  | .reset => .next s.takeTurn.resetBlock

/-- `s` with the low `nbits` bits of `w` accepted as the command in flight (R87) and the next turn given to the engine, so
that the very next step runs it. It stands for the host's CMD write (log 10). -/
def State.withFetchWord (s : State) (nbits w : Nat) : State :=
  { s.accept (BitVec.ofNat 32 (w % 2 ^ nbits)) with turns := .engine :: s.turns }

end Sys2Proof.Machine
end

