-- ==== Sys2Proof/Machine/Assembler.lean ====
section
/-! DEFINITION. Machine/Assembler.lean: the assembler form of a command (30_encoding.md R89, on a line already cut into its
words, log 18) and the host programs and pseudo-instructions (R90, R91), as sequences of host operations. -/

namespace Sys2Proof.Machine

/-- The assembler's name of a buffer (R89). -/
def bufName : BufId → String
  | .hdr => "HDR"
  | .data => "DATA"
  | .wire => "WIRE"
  | .arg0 => "ARG0"
  | .arg1 => "ARG1"

/-- The buffer an assembler name stands for: HDR to ARG1, or b0 to b4 (R89). -/
def bufOfName? : String → Option BufId
  | "HDR" => some .hdr
  | "DATA" => some .data
  | "WIRE" => some .wire
  | "ARG0" => some .arg0
  | "ARG1" => some .arg1
  | "b0" => some .hdr
  | "b1" => some .data
  | "b2" => some .wire
  | "b3" => some .arg0
  | "b4" => some .arg1
  | _ => none

/-- The words of a command's assembler line, destination first (R89). -/
def Instr.tokens : Instr → List String
  | .nop => ["NOP"]
  | .setmk => ["SETMK"]
  | .esc d s => ["ESC", bufName d, bufName s]
  | .unesc d s => ["UNESC", bufName d, bufName s]
  | .crc s => ["CRC", bufName s]
  | .enc => ["ENC"]
  | .dec => ["DEC"]
  | .val => ["VAL"]

/-- The command an assembler line stands for (R89). -/
def parseLine : List String → Option Instr
  | ["NOP"] => some .nop
  | ["SETMK"] => some .setmk
  | ["ESC", d, s] => (bufOfName? d).bind fun d => (bufOfName? s).map fun s => .esc d s
  | ["UNESC", d, s] => (bufOfName? d).bind fun d => (bufOfName? s).map fun s => .unesc d s
  | ["CRC", s] => (bufOfName? s).map .crc
  | ["ENC"] => some .enc
  | ["DEC"] => some .dec
  | ["VAL"] => some .val
  | _ => none

/-- The assembled word of a line (R89). -/
def assemble (line : List String) : Option Word := (parseLine line).map encode

/-- The bus address of a register (R50). -/
def regAddr (base : Nat) (r : Reg) : Nat := base + Reg.offset r

/-- `WR reg, v` (R90). -/
def wr (base : Nat) (r : Reg) (v : Word) : HostOp := .write (regAddr base r) v

/-- `RD reg` (R90). -/
def rd (base : Nat) (r : Reg) : HostOp := .read (regAddr base r)

/-- A command mnemonic on its own: a write of its word to CMD (R90). -/
def issue (base : Nat) (i : Instr) : HostOp := wr base .cmd (encode i)

/-- POLL (R91). -/
def pollStatus (base : Nat) : HostOp := .poll (regAddr base .status)

/-- RUN (R91): the command's word, then POLL. -/
def runWord (base : Nat) (w : Word) : List HostOp := [wr base .cmd w, pollStatus base]

/-- LOAD k, x (R91). -/
def load (base : Nat) (k : BufId) (x : Bytes) : List HostOp :=
  [wr base .bufSel (BitVec.ofNat 32 k.num), wr base .bufPtr 0#32] ++
    (x.map fun b => wr base .bufData (b.setWidth 32)) ++ [wr base .bufLen (BitVec.ofNat 32 x.length)]

/-- DUMP k (R91): the length is read first, and as many bytes as it says are read through the port. -/
def dump (base : Nat) (k : BufId) : List HostOp :=
  [wr base .bufSel (BitVec.ofNat 32 k.num), rd base .bufLen, wr base .bufPtr 0#32, .readCount (regAddr base .bufData)]

/-- SRST (R91). -/
def srst (base : Nat) : HostOp := wr base .ctrl 1#32

/-- CLR (R91): clears DONE, OVR and HAZ. -/
def clr (base : Nat) : HostOp := wr base .status 0xE#32

end Sys2Proof.Machine
end

