-- ==== Sys2Proof/Safety.lean ====
section
/-! DEFINITION. Safety.lean: what a state of this block must satisfy whatever the host does, in the terms the statements
use. -/

namespace Sys2Proof.Machine

/-- A buffer as R33 says it is: LEN at most CAP, and a storage in canonical form with no cell at or beyond CAP. -/
def Buffer.ok (b : Buffer) (cap : Nat) : Prop :=
  b.len ≤ cap ∧ b.store.wf = true ∧ ∀ c ∈ b.store, c.1 < cap

/-- The invariant of the block. -/
structure State.Inv (s : State) : Prop where
  /-- the capacities are legal (R6) -/
  params : s.params.legal = true
  /-- every buffer is as R33 says -/
  buffers : ∀ k, (s.buf k).ok (s.cap k)
  /-- MKV = 1 exactly when 32 ≤ MARKER ≤ 126 (R24) -/
  marked : s.mkv = true ↔ 32 ≤ s.marker.toNat ∧ s.marker.toNat ≤ 126
  /-- MKV = 0 exactly when MARKER = 0 (R24) -/
  unmarked : s.mkv = false ↔ s.marker = 0#8
  /-- a command in flight has shown no outcome yet (R87, R88) -/
  inFlight : s.busy = true → s.done = false ∧ s.err = .ok

/-- The codes a command's rule allows it to end with (the Status written lines of R100, R101, R116, R117, R132, R145, R150,
R170; R200), IllegalCommandError apart, which comes before any of them (R202). -/
def codesOf : Instr → List Status
  | .nop => [.ok]
  | .setmk => [.ok, .configError]
  | .esc _ _ => [.ok, .capacityError]
  | .unesc _ _ => [.ok, .capacityError]
  | .crc _ => [.ok]
  | .enc => [.ok, .headerLengthError, .lengthBoundError, .notConfiguredError, .capacityError]
  | .dec => [.ok, .incompleteFrameError, .notConfiguredError, .capacityError]
  | .val => [.ok, .headerLengthError, .markerMismatchError, .versionRangeError, .checksumMismatchError,
      .lengthMismatchError, .notConfiguredError]

/-- The buffers a command may write (R82). -/
def buffersWritten : Instr → List BufId
  | .nop => []
  | .setmk => []
  | .esc d _ => [d]
  | .unesc d _ => [d]
  | .crc _ => []
  | .enc => [.wire]
  | .dec => [.hdr, .data]
  | .val => []

/-- The state of the block with everything a host sees through the window outside STATUS: the operands and the results of
commands. Two states with equal `operands` differ at most in BUSY, PENDING, DONE, OVR, HAZ, ERR and on the host's side. -/
def State.operands (s : State) : State :=
  { s with busy := false, pending := 0#32, done := false, ovr := false, haz := false, err := .ok,
           hostQueue := [], turns := [], replies := [] }

/-- VAL's verdict on the fields of a frame, for a configured marker `m` (R170): the first of the five checks that fails. -/
def verdict (m mark : Byte) (headerLen : Nat) (ver : Byte) (ck : Word) (ln : BitVec 64) (d : Bytes) : Status :=
  if mark ≠ m then .markerMismatchError
  else if headerLen ≠ 10 then .headerLengthError
  else if ver = 0#8 then .versionRangeError
  else if crc32 d ≠ ck then .checksumMismatchError
  else if d.length ≠ ln.toNat then .lengthMismatchError
  else .ok

/-- How many bytes, from index 0 on, a command that ends with code 0 stores into a buffer (the `setbuf` calls of R116,
R117, R145, R150), computed from the state it runs on. -/
def bytesStored (i : Instr) (s : State) (k : BufId) : Nat :=
  match i with
  | .nop => 0
  | .setmk => 0
  | .esc d src => if k = d then (escape (s.content src) (s.content .arg0) (s.content .arg1)).length else 0
  | .unesc d src => if k = d then (unescape (s.content src) (s.content .arg0) (s.content .arg1)).length else 0
  | .crc _ => 0
  | .enc =>
    if k = .wire then (encodeFrame s.marker (s.content .hdr) s.fVer (s.content .data)).length else 0
  | .dec =>
    if k = .hdr then (frameHeader (s.content .wire)).length
    else if k = .data then (frameData (s.content .wire) s.marker).length else 0
  | .val => 0

/-- The next step is a reset: the reset input (R230), or a host write to CTRL with bit 0 set (R231). -/
def State.resetsNext (s : State) : Prop :=
  s.nextTurn = .reset ∨
  (s.nextTurn = .host ∧ ∃ a v rest, s.hostQueue = .write a v :: rest ∧ Reg.at s.params.base a = .ctrl ∧ v.getLsbD 0 = true)

/-- The next step is the completion of the command `i` (R88). -/
def State.completesNext (s : State) (i : Instr) : Prop :=
  s.nextTurn = .engine ∧ s.busy = true ∧ decode s.pending = .ok i

end Sys2Proof.Machine
end

