-- ==== Sys2Proof/Certificates/Slice0/Obligations.lean ====
section
/-! DEFINITION. Certificates/Slice0/Obligations.lean: the statements about this block, in the order of the spec's files. -/

open Sys2Proof Sys2Proof.Machine

/-! ## Encoding (30_encoding.md) -/

/-- R83, R84: words written out from the encoding table, and the illegal words of 95_test_vectors.md with the condition of
R84 each meets. -/
def Obligations.WordsOfTheTableDecode : Prop :=
  decode 0x00000000#32 = .ok .nop ∧ decode 0x00000001#32 = .ok .setmk ∧
  decode 0x00002102#32 = .ok (.esc .wire .data) ∧ decode 0x00001203#32 = .ok (.unesc .data .wire) ∧
  decode 0x00003302#32 = .ok (.esc .arg0 .arg0) ∧ decode 0x00000102#32 = .ok (.esc .hdr .data) ∧
  decode 0x00000104#32 = .ok (.crc .data) ∧ decode 0x00000204#32 = .ok (.crc .wire) ∧
  decode 0x00000005#32 = .ok .enc ∧ decode 0x00000006#32 = .ok .dec ∧ decode 0x00000007#32 = .ok .val ∧
  decode 0x00000008#32 = .error .unknownOpcode ∧ decode 0x000000FF#32 = .error .unknownOpcode ∧
  decode 0x00010000#32 = .error .reservedBits ∧ decode 0x00000100#32 = .error .unusedField ∧
  decode 0x00001000#32 = .error .unusedField ∧ decode 0x00001004#32 = .error .unusedField ∧
  decode 0x00000101#32 = .error .unusedField ∧ decode 0x00000504#32 = .error .bufferId ∧
  decode 0x00005002#32 = .error .bufferId ∧ decode 0x00000502#32 = .error .bufferId

/-- R83, R85: decoding and encoding are inverse to each other, over every word and every command. -/
def Obligations.DecodeAndEncodeAreInverse : Prop :=
  ∀ (w : Word) (i : Instr), decode w = .ok i ↔ encode i = w

/-- R85: every word is one row of R83 with legal fields, or illegal; rows do not overlap; the checks run in R85's order. -/
def Obligations.DecodingIsTotalInTheOrderOfItsChecks : Prop :=
  (∀ w : Word, (∃ i, decode w = .ok i ∧ i.row ∈ opcodeRows ∧ i.row.covers w = true ∧ (fieldsOf w).wellFormed = true) ∨
    (∃ e, decode w = .error e ∧ (fieldsOf w).wellFormed = false)) ∧
  (∀ (w : Word) (r q : OpcodeRow), r ∈ opcodeRows → q ∈ opcodeRows → r.covers w = true → q.covers w = true → r = q) ∧
  (∀ w : Word, (fieldsOf w).opcodeKnown = false → decode w = .error .unknownOpcode) ∧
  (∀ w : Word, (fieldsOf w).opcodeKnown = true → (fieldsOf w).reservedZero = false → decode w = .error .reservedBits) ∧
  (∀ w : Word, (fieldsOf w).opcodeKnown = true → (fieldsOf w).reservedZero = true → (fieldsOf w).unusedZero = false →
    decode w = .error .unusedField) ∧
  (∀ w : Word, (fieldsOf w).opcodeKnown = true → (fieldsOf w).reservedZero = true → (fieldsOf w).unusedZero = true →
    (fieldsOf w).buffersNamed = false → decode w = .error .bufferId)

/-- R84: the four conditions; an illegal word is accepted like any other, and at its completion commits nothing and ends
with IllegalCommandError, code 11. -/
def Obligations.IllegalWordCompletesWithCodeEleven : Prop :=
  (∀ w : Word, (fieldsOf w).wellFormed = false ↔
    8 ≤ (w.extractLsb' 0 8).toNat ∨ w.extractLsb' 16 16 ≠ 0#16 ∨
    ((w.extractLsb' 0 8).toNat ∈ [0, 1, 5, 6, 7] ∧ (w.extractLsb' 8 4 ≠ 0#4 ∨ w.extractLsb' 12 4 ≠ 0#4)) ∨
    ((w.extractLsb' 0 8).toNat = 4 ∧ w.extractLsb' 12 4 ≠ 0#4) ∨
    ((w.extractLsb' 0 8).toNat ∈ [2, 3, 4] ∧ 5 ≤ (w.extractLsb' 8 4).toNat) ∨
    ((w.extractLsb' 0 8).toNat ∈ [2, 3] ∧ 5 ≤ (w.extractLsb' 12 4).toNat)) ∧
  (∀ (s : State) (w : Word), s.busy = false →
    writeReg .cmd w s = { s with pending := w, busy := true, done := false, err := .ok }) ∧
  (∀ s : State, (fieldsOf s.pending).wellFormed = false →
    runPending s = .next { s with err := .illegalCommandError, busy := false, done := true }) ∧
  Status.illegalCommandError.code = 11#4

/-- R89: a command's assembler line assembles to its word, `{0, DST, SRC, OPC}`; b0 to b4 are the buffers too. -/
def Obligations.AssembledLineIsTheCommandWord : Prop :=
  (∀ i : Instr, assemble (Instr.tokens i) = some (encode i)) ∧
  (∀ i : Instr, encode i = 0#16 ++ i.fields.dst ++ i.fields.src ++ i.opcode) ∧
  (∀ d s : BufId, (Instr.esc d s).fields.dst.toNat = d.num ∧ (Instr.esc d s).fields.src.toNat = s.num ∧
    (Instr.unesc d s).fields.dst.toNat = d.num ∧ (Instr.unesc d s).fields.src.toNat = s.num ∧
    (Instr.crc s).fields.src.toNat = s.num) ∧
  ["b0", "b1", "b2", "b3", "b4"].map bufOfName? = ["HDR", "DATA", "WIRE", "ARG0", "ARG1"].map bufOfName?

/-! ## The step (30_encoding.md R86 to R88) -/

/-- R88: while BUSY = 1 and it is the engine's turn, a step is the completion of PENDING, and for a word that decodes that
command's meaning, on the state with the turn used up. The same for the word `withFetchWord` puts in flight. That the turn is
read from `turns` is the model's choice (log 4). -/
def Obligations.StepRunsThePendingCommand : Prop :=
  (∀ (s : State) (i : Instr), s.busy = true → s.nextTurn = .engine → decode s.pending = .ok i →
    step s = exec i s.takeTurn) ∧
  (∀ s : State, s.busy = true → s.nextTurn = .engine → step s = runPending s.takeTurn) ∧
  (∀ (s : State) (n w : Nat) (i : Instr), decodeTableWord n w = some i →
    step (s.withFetchWord n w) = exec i (s.accept (BitVec.ofNat 32 (w % 2 ^ n))))

/-- R61, R88, R230: the other moves: the host's next operation, an engine with nothing in flight, the reset input. That
`turns` says who moves, and what an empty `turns` means, is the model's choice (log 4). -/
def Obligations.StepOfEachTurn : Prop :=
  ∀ s : State,
    (s.nextTurn = .host → step s = .next (hostMove s.takeTurn)) ∧
    (s.nextTurn = .engine → s.busy = false → step s = .next s.takeTurn) ∧
    (s.nextTurn = .reset → step s = .next s.takeTurn.resetBlock) ∧
    (∀ t rest, s.turns = t :: rest → s.nextTurn = t ∧ s.takeTurn.turns = rest) ∧
    (s.turns = [] → s.nextTurn = (if s.busy then .engine else .host) ∧ s.takeTurn = s)

/-- No step stops: every step answers a next state. -/
def Obligations.EveryStepAnswersANextState : Prop := ∀ s : State, ∃ t, step s = .next t

/-- R88: every command ends its flight: BUSY = 0, DONE = 1, OVR and HAZ as before. -/
def Obligations.EveryCommandEndsItsFlight : Prop :=
  ∀ (i : Instr) (s : State), ∃ t, exec i s = .next t ∧ t.busy = false ∧ t.done = true ∧ t.ovr = s.ovr ∧ t.haz = s.haz ∧
    t.hostQueue = s.hostQueue ∧ t.turns = s.turns ∧ t.replies = s.replies

/-- R87: a write at offset 0x08, CMD, is dropped with OVR while a command is in flight, and accepted otherwise, whatever the
word, without being decoded. -/
def Obligations.CmdWriteIsAcceptedOrDropped : Prop :=
  (∀ base : Nat, Reg.at base (base + 0x08) = .cmd) ∧
  ∀ (s : State) (w : Word),
    (s.busy = true → writeReg .cmd w s = { s with ovr := true }) ∧
    (s.busy = false → writeReg .cmd w s = { s with pending := w, busy := true, done := false, err := .ok })

/-- R240: while a command is in flight, at most as many steps as there are turns given, and one more, end the flight.
That a run out of turns lets the engine move is the model's form of weak fairness (log 4). -/
def Obligations.CommandInFlightEnds : Prop :=
  ∀ s : State, s.busy = true → ∃ n t, n ≤ s.turns.length + 1 ∧ Host.Core.run Sys2Proof.core n s = .next t ∧ t.busy = false

/-- R91, RUN, on the model's host queue (log 5): with nothing in flight and no turns given (log 4), three steps issue a word, complete it and poll STATUS once; the
word STATUS holds then is the host's last reply. -/
def Obligations.RunIssuesCompletesAndPolls : Prop :=
  ∀ (s : State) (w : Word) (rest : List HostOp), s.busy = false → s.turns = [] →
    s.hostQueue = runWord s.params.base w ++ rest →
    ∃ t, runPending ((s.withQueue (pollStatus s.params.base :: rest)).accept w) = .next t ∧
      Host.Core.run Sys2Proof.core 3 s = .next { t with hostQueue := rest, replies := t.statusWord :: s.replies }

/-! ## Register window (10_state.md, 20_memory.md) -/

/-- R51: the slot is offset[5:2]; the low two bits are ignored; every register answers at its own offset (R50). -/
def Obligations.AddressDecodeIgnoresTheLowBits : Prop :=
  (∀ (base off : Nat), Reg.at base (base + off) = Reg.at base (base + off / 4 % 16 * 4)) ∧
  (∀ (base low : Nat) (r : Reg), low < 4 → Reg.at base (base + Reg.offset r + low) = r)

/-- R23: STATUS holds its flags and ERR in their places, reads 0 elsewhere, and a write of it clears DONE, OVR and HAZ where
it has a 1 and writes nothing else, in lockout too. -/
def Obligations.StatusBitsAndWriteOneToClear : Prop :=
  (∀ s : State, s.statusWord.getLsbD 0 = s.busy ∧ s.statusWord.getLsbD 1 = s.done ∧ s.statusWord.getLsbD 2 = s.ovr ∧
    s.statusWord.getLsbD 3 = s.haz ∧ s.statusWord.getLsbD 4 = s.mkv ∧ s.statusWord.extractLsb' 5 3 = 0#3 ∧
    s.statusWord.extractLsb' 8 4 = s.err.code ∧ s.statusWord.extractLsb' 12 20 = 0#20 ∧
    readReg .status s = (s.statusWord, s)) ∧
  (∀ (s : State) (v : Word), writeReg .status v s =
    { s with done := s.done && !v.getLsbD 1, ovr := s.ovr && !v.getLsbD 2, haz := s.haz && !v.getLsbD 3 })

/-- R57, the whole lockout table, and what follows from it: no read has an effect, and no write but a reset changes an operand
or the command in flight. -/
def Obligations.BusyLockout : Prop :=
  ∀ s : State, s.busy = true →
    (readReg .id s = (0x46524D07#32, s) ∧ readReg .status s = (s.statusWord, s)) ∧
    (∀ r : Reg, r ≠ .id → r ≠ .status → readReg r s = (0#32, s)) ∧
    (∀ v : Word, writeReg .ctrl v s = (if v.getLsbD 0 then s.resetBlock else s) ∧
      writeReg .status v s =
        { s with done := s.done && !v.getLsbD 1, ovr := s.ovr && !v.getLsbD 2, haz := s.haz && !v.getLsbD 3 } ∧
      writeReg .cmd v s = { s with ovr := true }) ∧
    (∀ (r : Reg) (v : Word), r ∈ [Reg.fMark, .fVer, .fCrc, .fLenLo, .fLenHi, .bufSel, .bufLen, .bufPtr, .bufData] →
      writeReg r v s = { s with haz := true }) ∧
    (∀ (r : Reg) (v : Word), r ∈ [Reg.id, .marker, .crcRes, .reserved] → writeReg r v s = s) ∧
    (∀ r : Reg, (readReg r s).2 = s) ∧
    (∀ (r : Reg) (v : Word), r ≠ .ctrl ∨ v.getLsbD 0 = false →
      (writeReg r v s).operands = s.operands ∧ (writeReg r v s).busy = true ∧ (writeReg r v s).pending = s.pending)

/-- R20, R24 to R30, R32, R53, R54, R102: outside lockout, what each register but STATUS, BUF_LEN and BUF_DATA reads as; no
read but one of BUF_DATA changes anything. -/
def Obligations.IdleRegisterReads : Prop :=
  ∀ s : State, s.busy = false →
    readReg .id s = (0x46524D07#32, s) ∧ readReg .ctrl s = (0#32, s) ∧ readReg .cmd s = (0#32, s) ∧
    readReg .marker s = (s.marker.setWidth 32, s) ∧ readReg .fMark s = (s.fMark.setWidth 32, s) ∧
    readReg .fVer s = (s.fVer.setWidth 32, s) ∧ readReg .fCrc s = (s.fCrc, s) ∧
    readReg .fLenLo s = (s.fLen.extractLsb' 0 32, s) ∧ readReg .fLenHi s = (s.fLen.extractLsb' 32 32, s) ∧
    readReg .crcRes s = (s.crcRes, s) ∧ readReg .bufSel s = (s.bufSel.setWidth 32, s) ∧
    readReg .bufPtr s = (s.bufPtr, s) ∧ readReg .reserved s = (0#32, s) ∧
    (∀ r : Reg, r ≠ .bufData → (readReg r s).2 = s)

/-- R25 to R28, R30, R32, R53: outside lockout, what a write of each plain register stores, that reserved bits are ignored,
that each half of F_LEN is written alone, and that read-only registers and offset 0x3C ignore a write. -/
def Obligations.IdleRegisterWrites : Prop :=
  ∀ (s : State) (v : Word), s.busy = false →
    writeReg .fMark v s = { s with fMark := v.extractLsb' 0 8 } ∧ writeReg .fVer v s = { s with fVer := v.extractLsb' 0 8 } ∧
    writeReg .fCrc v s = { s with fCrc := v } ∧
    writeReg .bufSel v s = { s with bufSel := v.extractLsb' 0 3 } ∧ writeReg .bufPtr v s = { s with bufPtr := v } ∧
    (∀ r : Reg, r ∈ [Reg.id, .marker, .crcRes, .reserved] → writeReg r v s = s) ∧
    (writeReg .ctrl v s = (if v.getLsbD 0 then s.resetBlock else s)) ∧
    (∃ n, writeReg .fLenLo v s = { s with fLen := n } ∧ n.extractLsb' 0 32 = v ∧
      n.extractLsb' 32 32 = s.fLen.extractLsb' 32 32) ∧
    (∃ n, writeReg .fLenHi v s = { s with fLen := n } ∧ n.extractLsb' 32 32 = v ∧
      n.extractLsb' 0 32 = s.fLen.extractLsb' 0 32)

/-- R55, R35: what a BUF_DATA read returns. -/
def Obligations.BufDataRead : Prop :=
  ∀ s : State, s.busy = false →
    (∀ k, s.bufSel.toNat = k.num → s.bufPtr.toNat < s.cap k →
      readReg .bufData s = ((s.storeByte k s.bufPtr.toNat).setWidth 32, { s with bufPtr := s.bufPtr + 1#32 })) ∧
    (∀ k, s.bufSel.toNat = k.num → s.cap k ≤ s.bufPtr.toNat →
      readReg .bufData s = (0#32, { s with bufPtr := s.bufPtr + 1#32 })) ∧
    (5 ≤ s.bufSel.toNat → readReg .bufData s = (0#32, { s with bufPtr := s.bufPtr + 1#32 }))

/-- R56, R35: a BUF_DATA write stores bits 7:0 at BUF_PTR of the selected buffer, steps BUF_PTR on, and changes no other byte
of any buffer, no LEN and nothing else; past the capacity or with a reserved id it stores nothing. -/
def Obligations.BufDataWrite : Prop :=
  ∀ (s : State) (v : Word), s.busy = false →
    (∀ k, s.bufSel.toNat = k.num → s.bufPtr.toNat < s.cap k →
      ∃ t : State, writeReg .bufData v s = { t with bufPtr := s.bufPtr + 1#32 } ∧
        t.storeByte k s.bufPtr.toNat = v.extractLsb' 0 8 ∧
        (∀ j i, (j ≠ k ∨ i ≠ s.bufPtr.toNat) → t.storeByte j i = s.storeByte j i) ∧
        (∀ j, (t.buf j).len = (s.buf j).len) ∧
        { t with hdr := s.hdr, data := s.data, wire := s.wire, arg0 := s.arg0, arg1 := s.arg1 } = s) ∧
    (∀ k, s.bufSel.toNat = k.num → s.cap k ≤ s.bufPtr.toNat →
      writeReg .bufData v s = { s with bufPtr := s.bufPtr + 1#32 }) ∧
    (5 ≤ s.bufSel.toNat → writeReg .bufData v s = { s with bufPtr := s.bufPtr + 1#32 })

/-- R31, R35: BUF_LEN takes min(v, CAP) and reads it back; no storage byte and nothing else changes; a reserved id reads 0 and
ignores the write. -/
def Obligations.BufLenTakesALegalValue : Prop :=
  ∀ (s : State) (v : Word), s.busy = false → s.params.legal = true →
    (∀ k, s.bufSel.toNat = k.num →
      ∃ t, writeReg .bufLen v s = t ∧ (t.buf k).len = min v.toNat (s.cap k) ∧
        (readReg .bufLen t).1.toNat = min v.toNat (s.cap k) ∧
        (∀ j i, t.storeByte j i = s.storeByte j i) ∧ (∀ j, j ≠ k → t.buf j = s.buf j) ∧
        { t with hdr := s.hdr, data := s.data, wire := s.wire, arg0 := s.arg0, arg1 := s.arg1 } = s) ∧
    (5 ≤ s.bufSel.toNat → writeReg .bufLen v s = s ∧ readReg .bufLen s = (0#32, s))

/-- R57, R62: while a command is in flight, no host move but a reset changes any operand or the command in flight. -/
def Obligations.LockoutFreezesTheOperands : Prop :=
  ∀ s t : State, s.busy = true → s.nextTurn = .host → ¬ s.resetsNext → step s = .next t →
    t.operands = s.operands ∧ t.busy = true ∧ t.pending = s.pending ∧ t.err = s.err

/-- R91, LOAD, on the model's host queue (log 5): with nothing in flight and no turns given (log 4), LOAD k, x makes `x` the content of buffer k, keeps its bytes from
|x| on and every other buffer, and leaves BUF_SEL = k and BUF_PTR = |x|. -/
def Obligations.LoadFillsTheBuffer : Prop :=
  ∀ (s : State) (k : BufId) (x : Bytes) (rest : List HostOp), s.Inv → s.busy = false → s.turns = [] →
    x.length ≤ s.cap k → s.hostQueue = load s.params.base k x ++ rest →
    ∃ t, Host.Core.run Sys2Proof.core (x.length + 3) s = .next t ∧ t.content k = x ∧
      (∀ i, x.length ≤ i → t.storeByte k i = s.storeByte k i) ∧ (∀ j, j ≠ k → t.buf j = s.buf j) ∧
      t.bufSel.toNat = k.num ∧ t.bufPtr.toNat = x.length ∧ t.hostQueue = rest ∧
      { t with hdr := s.hdr, data := s.data, wire := s.wire, arg0 := s.arg0, arg1 := s.arg1, bufSel := s.bufSel,
               bufPtr := s.bufPtr, hostQueue := s.hostQueue } = s

/-- R91, DUMP, on the model's host queue (log 5): with nothing in flight and no turns given (log 4), DUMP k returns LEN[k] and then buf[k] in order (`replies` is
newest first), and changes nothing but BUF_SEL and BUF_PTR. -/
def Obligations.DumpReturnsTheBuffer : Prop :=
  ∀ (s : State) (k : BufId) (rest : List HostOp), s.Inv → s.busy = false → s.turns = [] →
    s.hostQueue = dump s.params.base k ++ rest →
    ∃ t, Host.Core.run Sys2Proof.core ((s.buf k).len + 4) s = .next t ∧
      t.replies = (((s.content k).map fun b => b.setWidth 32).reverse) ++ BitVec.ofNat 32 (s.buf k).len :: s.replies ∧
      t.hostQueue = rest ∧ t.bufSel.toNat = k.num ∧ t.bufPtr.toNat = (s.buf k).len ∧
      { t with bufSel := s.bufSel, bufPtr := s.bufPtr, hostQueue := s.hostQueue, replies := s.replies } = s

/-! ## Control and marker (40_control_config.md) -/

/-- R100: NOP completes and changes nothing but STATUS, which then reads 2 when OVR, HAZ and MKV are 0; a word
with OPC 0 and any other bit set completes with IllegalCommandError. -/
def Obligations.NopOnlyReportsOk : Prop :=
  encode .nop = 0x00000000#32 ∧
  (∀ s : State, exec .nop s = .next { s with err := .ok, busy := false, done := true }) ∧
  (∀ s t : State, exec .nop s = .next t → s.ovr = false → s.haz = false → s.mkv = false → t.statusWord = 0x00000002#32) ∧
  (∀ s : State, s.pending.extractLsb' 0 8 = 0x00#8 → s.pending ≠ 0x00000000#32 →
    runPending s = .next { s with err := .illegalCommandError, busy := false, done := true })

/-- R101: a candidate of one byte in [32, 126] becomes the marker; any other ends in ConfigError, and MARKER and MKV stay. No
other command sets MKV. -/
def Obligations.SetmkSetsTheMarker : Prop :=
  encode .setmk = 0x00000001#32 ∧
  (∀ (s : State) (v : Byte), s.content .arg0 = [v] → 32 ≤ v.toNat → v.toNat ≤ 126 →
    exec .setmk s = .next { s with marker := v, mkv := true, err := .ok, busy := false, done := true }) ∧
  (∀ s : State, (s.content .arg0).length ≠ 1 →
    exec .setmk s = .next { s with err := .configError, busy := false, done := true }) ∧
  (∀ (s : State) (v : Byte), s.content .arg0 = [v] → v.toNat < 32 ∨ 126 < v.toNat →
    exec .setmk s = .next { s with err := .configError, busy := false, done := true }) ∧
  (∀ (i : Instr) (s t : State), exec i s = .next t → s.mkv = false → t.mkv = true → i = .setmk)

/-- R24, R29: MARKER and MKV change only when a SETMK completes or at a reset; CRC_RES only when a CRC completes or at a reset;
the instance parameters never; the storage draw only at a reset (log 2). -/
def Obligations.WhoWritesTheMarkerAndTheChecksumResult : Prop :=
  ∀ s t : State, step s = .next t →
    (¬ s.resetsNext → ¬ s.completesNext .setmk → t.marker = s.marker ∧ t.mkv = s.mkv) ∧
    (¬ s.resetsNext → (∀ k, ¬ s.completesNext (.crc k)) → t.crcRes = s.crcRes) ∧
    t.params = s.params ∧ (¬ s.resetsNext → t.epoch = s.epoch)

/-- R103, R233: without a marker ENC, DEC and VAL end with NotConfiguredError; NOP, ESC, UNESC and CRC do the same whatever
MARKER and MKV are, and SETMK ends in the same state but for the marker it may have kept. -/
def Obligations.OnlyFrameCommandsReadTheMarker : Prop :=
  (∀ (i : Instr) (s : State), i ∈ [Instr.enc, .dec, .val] → s.mkv = false →
    exec i s = .next { s with err := .notConfiguredError, busy := false, done := true }) ∧
  (∀ (i : Instr) (s t : State) (m : Byte) (b : Bool), i ≠ .setmk → i ∉ [Instr.enc, .dec, .val] → exec i s = .next t →
    exec i { s with marker := m, mkv := b } = .next { t with marker := m, mkv := b }) ∧
  (∀ (s t : State) (m : Byte) (b : Bool), exec .setmk s = .next t →
    ∃ u, exec .setmk { s with marker := m, mkv := b } = .next u ∧ u.err = t.err ∧
      (t.err = .ok → u = t) ∧ (t.err ≠ .ok → u.marker = m ∧ u.mkv = b))

/-! ## Escape transform (41_escape.md) -/

/-- R110: `escape` is the spec's loop, which ends within |d| rounds, and the identity when S or R is empty. -/
def Obligations.EscapeIsTheLoopOfTheSpec : Prop :=
  ∀ d S R : Bytes,
    (S ≠ [] → R ≠ [] → escape d S R = escapeLoop d S R d.length 0 [] ∧
      ∀ n, escapeLoop d S R (d.length + n) 0 [] = escapeLoop d S R d.length 0 []) ∧
    (S = [] ∨ R = [] → escape d S R = d)

/-- R112: the length of the transform's result, for both directions. -/
def Obligations.EscapeLength : Prop :=
  ∀ d S R : Bytes, S ≠ [] → R ≠ [] →
    ((escape d S R).length : Int) = d.length + matchCount S 0 d * ((R.length : Int) - S.length) ∧
    matchCount S 0 d ≤ d.length / S.length ∧
    (escape d S R).length * S.length ≤ d.length * max S.length R.length ∧
    ((unescape d S R).length : Int) = d.length + matchCount R 0 d * ((S.length : Int) - R.length) ∧
    matchCount R 0 d ≤ d.length / R.length ∧
    (unescape d S R).length * R.length ≤ d.length * max R.length S.length

/-- R113: when R starts with S, unescape inverts escape on every payload; with R = S both are the identity. -/
def Obligations.UnescapeInvertsEscapeWhenTheReplacementStartsWithTheBoundary : Prop :=
  (∀ P S R : Bytes, S ≠ [] → S <+: R → unescape (escape P S R) S R = P) ∧
  (∀ P S : Bytes, escape P S S = P ∧ unescape P S S = P) ∧
  (∀ P S : Bytes, S ≠ [] → unescape (escape P S (S ++ S)) S (S ++ S) = P)

/-- R114: the document's round-trip law fails on the spec's counterexample, whose payload does not contain R. -/
def Obligations.PublishedRoundTripLawFails : Prop :=
  let S : Bytes := [0x61#8]
  let R : Bytes := [0x62#8, 0x62#8]
  let P : Bytes := [0x62#8, 0x61#8]
  ¬ R <:+: P ∧ escape P S R = [0x62#8, 0x62#8, 0x62#8] ∧ unescape (escape P S R) S R = [0x61#8, 0x62#8] ∧
    unescape (escape P S R) S R ≠ P

/-- R116: ESC stores the escaped source in DST, or ends in CapacityError. The inputs are those before the write, whatever
aliases. -/
def Obligations.EscStoresTheEscapedSource : Prop :=
  ∀ (dst src : BufId) (s : State) (o : Bytes), o = escape (s.content src) (s.content .arg0) (s.content .arg1) →
    (o.length ≤ s.cap dst →
      ∃ t, exec (.esc dst src) s = .next t ∧ t.err = .ok ∧ t.content dst = o ∧ (t.buf dst).len = o.length ∧
        (∀ i, o.length ≤ i → t.storeByte dst i = s.storeByte dst i) ∧ (∀ k, k ≠ dst → t.buf k = s.buf k)) ∧
    (s.cap dst < o.length →
      exec (.esc dst src) s = .next { s with err := .capacityError, busy := false, done := true })

/-- R117: UNESC stores the unescaped source in DST, or ends in CapacityError. -/
def Obligations.UnescStoresTheUnescapedSource : Prop :=
  ∀ (dst src : BufId) (s : State) (o : Bytes), o = unescape (s.content src) (s.content .arg0) (s.content .arg1) →
    (o.length ≤ s.cap dst →
      ∃ t, exec (.unesc dst src) s = .next t ∧ t.err = .ok ∧ t.content dst = o ∧ (t.buf dst).len = o.length ∧
        (∀ i, o.length ≤ i → t.storeByte dst i = s.storeByte dst i) ∧ (∀ k, k ≠ dst → t.buf k = s.buf k)) ∧
    (s.cap dst < o.length →
      exec (.unesc dst src) s = .next { s with err := .capacityError, busy := false, done := true })

/-! ## Checksum (42_checksum.md) -/

/-- R130, R131: the check values. -/
def Obligations.ChecksumCheckValues : Prop :=
  crc32 [0x68#8, 0x65#8, 0x6C#8, 0x6C#8, 0x6F#8] = 0x3610A686#32 ∧ crc32 [] = 0x00000000#32 ∧
  crc32 [0x31#8, 0x32#8, 0x33#8, 0x34#8, 0x35#8, 0x36#8, 0x37#8, 0x38#8, 0x39#8] = 0xCBF43926#32

/-- R133: the checksum is linear over GF(2) but for its constants: it takes the exclusive or of three equally long messages to
the exclusive or of their checksums. -/
def Obligations.ChecksumIsAffine : Prop :=
  ∀ x y z : Bytes, x.length = y.length → y.length = z.length →
    crc32 (List.zipWith (· ^^^ ·) x (List.zipWith (· ^^^ ·) y z)) = crc32 x ^^^ crc32 y ^^^ crc32 z

/-- From R130: two messages that differ in one byte have different checksums. -/
def Obligations.ChecksumDetectsOneChangedByte : Prop :=
  ∀ (a c : Bytes) (b b' : Byte), b ≠ b' → crc32 (a ++ b :: c) ≠ crc32 (a ++ b' :: c)

/-- R132: CRC writes the checksum of the source's content to CRC_RES and nothing else but STATUS. -/
def Obligations.CrcWritesItsResult : Prop :=
  ∀ (k : BufId) (s : State),
    exec (.crc k) s = .next { s with crcRes := crc32 (s.content k), err := .ok, busy := false, done := true }

/-! ## Frame codec (43_frame_codec.md) -/

/-- R140, R145: ENC writes the frame of R140 to WIRE, byte field by byte field, and nothing else but STATUS. -/
def Obligations.EncWritesTheFrame : Prop :=
  ∀ (s : State) (H P X : Bytes), s.mkv = true → s.content .hdr = H → H.length = 10 → s.content .data = P →
    P.length ≤ 0xFFFFFFFF → X = fesc P s.marker H → 35 + X.length ≤ s.params.wireCap →
    ∃ t, exec .enc s = .next t ∧ t.err = .ok ∧
      t.content .wire =
        [s.marker] ++ H ++ [s.fVer] ++ be32 (crc32 P) ++ be64 (BitVec.ofNat 64 P.length) ++ X ++ H ++ [s.marker] ∧
      (t.buf .wire).len = 35 + X.length ∧
      (∀ i, 35 + X.length ≤ i → t.storeByte .wire i = s.storeByte .wire i) ∧
      { t with wire := s.wire } = { s with err := .ok, busy := false, done := true }

/-- R145, R202: ENC's errors, in their order; nothing but STATUS changes. With legal capacities LengthBoundError is never
among them (I15). -/
def Obligations.EncReportsTheFirstError : Prop :=
  (∀ s t : State, s.Inv → exec .enc s = .next t → t.err ≠ .lengthBoundError) ∧
  ∀ (s : State) (H P : Bytes), s.content .hdr = H → s.content .data = P →
    (s.mkv = false → exec .enc s = .next { s with err := .notConfiguredError, busy := false, done := true }) ∧
    (s.mkv = true → H.length ≠ 10 →
      exec .enc s = .next { s with err := .headerLengthError, busy := false, done := true }) ∧
    (s.mkv = true → H.length = 10 → 0xFFFFFFFF < P.length →
      exec .enc s = .next { s with err := .lengthBoundError, busy := false, done := true }) ∧
    (s.mkv = true → H.length = 10 → P.length ≤ 0xFFFFFFFF → s.params.wireCap < 35 + (fesc P s.marker H).length →
      exec .enc s = .next { s with err := .capacityError, busy := false, done := true })

/-- R144: the frame unescape inverts the frame escape for every payload, marker and non-empty header. -/
def Obligations.FrameUnescapeInvertsFrameEscape : Prop :=
  ∀ (P H : Bytes) (M : Byte), H ≠ [] → funesc (fesc P M H) M H = P

/-- R143: the size of the escaped region, when the bound is reached, that ENC's result fits in a WIRE of 4·DATA_CAP + 35 bytes
(the default one while DATA_CAP ≤ 1073741815), and that the frame unescape never grows its input. -/
def Obligations.FrameEscapeSize : Prop :=
  (∀ (P H : Bytes) (M : Byte), H.length = 10 →
    P.length ≤ (fesc P M H).length ∧ (fesc P M H).length ≤ 4 * P.length ∧
    (escape P [M] [M, M]).length ≤ 2 * P.length ∧ (fesc P M H).length ≤ 2 * (escape P [M] [M, M]).length ∧
    ((fesc P M H).length = 4 * P.length → 5 ∣ P.length)) ∧
  (∀ (M : Byte) (j : Nat), (fesc (List.replicate (5 * j) M) M (List.replicate 10 M)).length = 4 * (5 * j)) ∧
  (∀ s t : State, s.Inv → 4 * s.params.dataCap + 35 ≤ s.params.wireCap → exec .enc s = .next t →
    t.err ≠ .capacityError) ∧
  (∀ n : Nat, n ≤ 1073741815 → Config.defaultWireCap n = 4 * n + 35) ∧
  (∀ (X H : Bytes) (M : Byte), (funesc X M H).length ≤ X.length)

/-- R150: DEC parses the fields by position, unescapes the region with the configured marker and the parsed header, and writes
the six outputs. The trailing 11 bytes `Z` are whatever they are (R151). -/
def Obligations.DecWritesTheFields : Prop :=
  ∀ (s : State) (mk ver : Byte) (H CK LN X Z D : Bytes), s.mkv = true →
    s.content .wire = [mk] ++ H ++ [ver] ++ CK ++ LN ++ X ++ Z →
    H.length = 10 → CK.length = 4 → LN.length = 8 → Z.length = 11 → D = funesc X s.marker H →
    D.length ≤ s.params.dataCap →
    ∃ t, exec .dec s = .next t ∧ t.err = .ok ∧ t.fMark = mk ∧ t.content .hdr = H ∧ t.fVer = ver ∧
      t.fCrc.toNat = fromBe CK ∧ t.fLen.toNat = fromBe LN ∧ t.content .data = D ∧
      (∀ i, 10 ≤ i → t.storeByte .hdr i = s.storeByte .hdr i) ∧
      (∀ i, D.length ≤ i → t.storeByte .data i = s.storeByte .data i) ∧
      { t with fMark := s.fMark, fVer := s.fVer, fCrc := s.fCrc, fLen := s.fLen, hdr := s.hdr, data := s.data } =
        { s with err := .ok, busy := false, done := true }

/-- R150, R202: DEC's errors, in their order; nothing but STATUS changes. -/
def Obligations.DecReportsTheFirstError : Prop :=
  ∀ (s : State) (W : Bytes), s.content .wire = W →
    (s.mkv = false → exec .dec s = .next { s with err := .notConfiguredError, busy := false, done := true }) ∧
    (s.mkv = true → W.length < 35 →
      exec .dec s = .next { s with err := .incompleteFrameError, busy := false, done := true }) ∧
    (s.mkv = true → 35 ≤ W.length →
      s.params.dataCap < (funesc ((W.drop 24).take (W.length - 35)) s.marker ((W.drop 1).take 10)).length →
      exec .dec s = .next { s with err := .capacityError, busy := false, done := true })

/-- R151: two WIRE contents that differ only in their last 11 bytes decode to the same state but for WIRE itself. -/
def Obligations.TrailingCopiesAreNotRead : Prop :=
  ∀ (s s' t : State) (A Z Z' : Bytes), s.content .wire = A ++ Z → s'.content .wire = A ++ Z' →
    Z.length = 11 → Z'.length = 11 → { s' with wire := s.wire } = s → exec .dec s = .next t →
    ∃ t', exec .dec s' = .next t' ∧ { t' with wire := s.wire } = t ∧
      ∀ u, exec .val t = .next u → ∃ u', exec .val t' = .next u' ∧ u'.err = u.err

/-- R155: RUN ENC, RUN DEC, RUN VAL, through the register window, for every payload and every ten-byte header. The nine steps
are those of the model's own host queue with no turns given (log 4, log 5). -/
def Obligations.FrameRoundTrip : Prop :=
  ∀ (s : State) (H P : Bytes), s.Inv → s.busy = false → s.turns = [] → s.mkv = true → s.content .hdr = H → H.length = 10 →
    1 ≤ s.fVer.toNat → s.content .data = P →
    35 + (fesc P s.marker H).length ≤ s.params.wireCap ∨
      (s.params.wireCap = Config.defaultWireCap s.params.dataCap ∧ s.params.dataCap ≤ 1073741815) →
    s.hostQueue = runWord s.params.base 0x00000005#32 ++ runWord s.params.base 0x00000006#32 ++
      runWord s.params.base 0x00000007#32 →
    ∃ t a b c, Host.Core.run Sys2Proof.core 9 s = .next t ∧ t.replies = c :: b :: a :: s.replies ∧
      a.extractLsb' 8 4 = 0#4 ∧ b.extractLsb' 8 4 = 0#4 ∧ c.extractLsb' 8 4 = 0#4 ∧
      t.err = .ok ∧ t.busy = false ∧ t.done = true ∧
      t.content .data = P ∧ t.content .hdr = H ∧ t.fVer = s.fVer ∧ t.fMark = s.marker ∧ t.fCrc = crc32 P ∧
      t.fLen.toNat = P.length ∧ t.hostQueue = []

/-- R156, data region: a frame of ENC's with its region replaced by one of the same length decodes, and VAL then reports OK
when the payload comes out the same, else a checksum mismatch, else a length mismatch, else OK. -/
def Obligations.TamperedRegionVerdict : Prop :=
  ∀ (s t u : State) (H P X' P' : Bytes) (v : Byte), s.mkv = true → H.length = 10 → 1 ≤ v.toNat → P.length ≤ 0xFFFFFFFF →
    X'.length = (fesc P s.marker H).length → P' = funesc X' s.marker H → P'.length ≤ s.params.dataCap →
    s.content .wire = frameBytes s.marker H v (crc32 P) (BitVec.ofNat 64 P.length) X' →
    exec .dec s = .next t → exec .val t = .next u →
    t.err = .ok ∧ (P' = P → u.err = .ok) ∧
    (P' ≠ P → u.err = if crc32 P' ≠ crc32 P then .checksumMismatchError
      else if P'.length ≠ P.length then .lengthMismatchError else .ok)

/-- R156, leading fields: one leading field of a frame of ENC's changed alone. -/
def Obligations.TamperedLeadingFieldVerdict : Prop :=
  ∀ (s t u : State) (H P : Bytes) (v : Byte) (mk ver : Byte) (ck : Word) (ln : BitVec 64) (h Z : Bytes),
    s.mkv = true → H.length = 10 → h.length = 10 → Z.length = 11 → 1 ≤ v.toNat →
    s.content .wire = [mk] ++ h ++ [ver] ++ be32 ck ++ be64 ln ++ fesc P s.marker H ++ Z →
    exec .dec s = .next t → t.err = .ok → exec .val t = .next u →
    (mk ≠ s.marker → u.err = .markerMismatchError) ∧
    (mk = s.marker → ver = 0#8 → u.err = .versionRangeError) ∧
    (mk = s.marker → 1 ≤ ver.toNat → ck = crc32 P → ln = BitVec.ofNat 64 P.length → h = H → u.err = .ok) ∧
    (mk = s.marker → ver = v → ck ≠ crc32 P → h = H → u.err = .checksumMismatchError) ∧
    (mk = s.marker → ver = v → ck = crc32 P → ln ≠ BitVec.ofNat 64 P.length → h = H → u.err = .lengthMismatchError) ∧
    (mk = s.marker → ver = v → ck = crc32 P → ln = BitVec.ofNat 64 P.length → funesc (fesc P s.marker H) s.marker h = P →
      u.err = .ok) ∧
    (mk = s.marker → ver = v → ck = crc32 P → crc32 (funesc (fesc P s.marker H) s.marker h) ≠ crc32 P →
      u.err = .checksumMismatchError)

/-- R235: a frame encoded under one marker, decoded and validated under another: DEC unescapes with the new marker, and VAL
reports MarkerMismatchError. -/
def Obligations.MarkerChangeBetweenEncodeAndValidate : Prop :=
  ∀ (s t u w : State) (m : Byte), exec .enc s = .next t → t.err = .ok → m ≠ s.marker →
    exec .dec { t with marker := m, mkv := true } = .next u → u.err = .ok → exec .val u = .next w →
    u.content .data = funesc (fesc (s.content .data) s.marker (s.content .hdr)) m (s.content .hdr) ∧
    w.err = .markerMismatchError

/-! ## Validator (44_validator.md) -/

/-- R170: VAL reports the first failing check and changes nothing but STATUS; run twice it gives the same code and state. -/
def Obligations.ValReportsTheFirstFailingCheck : Prop :=
  encode .val = 0x00000007#32 ∧
  (∀ s : State, s.Inv →
    exec .val s = .next { s with
      err := if s.mkv = false then .notConfiguredError
        else verdict s.marker s.fMark s.hdr.len s.fVer s.fCrc s.fLen (s.content .data),
      busy := false, done := true }) ∧
  (∀ s t : State, exec .val s = .next t → exec .val t = .next t)

/-- R170: when the marker is set and all five checks hold, VAL ends with code 0. -/
def Obligations.ValAcceptsAValidFrame : Prop :=
  ∀ s : State, s.mkv = true → s.fMark = s.marker → (s.content .hdr).length = 10 → 1 ≤ s.fVer.toNat →
    crc32 (s.content .data) = s.fCrc → (s.content .data).length = s.fLen.toNat →
    exec .val s = .next { s with err := .ok, busy := false, done := true }

/-- R172: after a successful DEC the header is ten bytes long, so VAL does not report HeaderLengthError unless LEN[HDR] has
been changed. -/
def Obligations.DecodedFramePassesTheHeaderCheck : Prop :=
  (∀ s t : State, exec .dec s = .next t → t.err = .ok → t.hdr.len = 10) ∧
  (∀ s t : State, exec .val s = .next t → t.err = .headerLengthError → s.hdr.len ≠ 10) ∧
  (∀ s t u : State, exec .dec s = .next t → t.err = .ok → exec .val t = .next u → u.err ≠ .headerLengthError)

/-! ## Errors (60_exceptions.md) -/

/-- R200: the codes, that no command ends with one that is not in its rule, and that codes 12 to 15 are never produced. -/
def Obligations.StatusCodesOfEachCommand : Prop :=
  [Status.ok, .configError, .headerLengthError, .lengthBoundError, .incompleteFrameError, .markerMismatchError,
    .versionRangeError, .checksumMismatchError, .lengthMismatchError, .notConfiguredError, .capacityError,
    .illegalCommandError].map (fun c => c.code.toNat) = List.range 12 ∧
  (∀ c : Status, c.code.toNat ≤ 11) ∧
  (∀ (i : Instr) (s t : State), exec i s = .next t → t.err ∈ codesOf i) ∧
  (∀ s t : State, runPending s = .next t → (t.err = .illegalCommandError ↔ ∃ e, decode s.pending = .error e))

/-- R201: a command that ends with a code other than 0 changes nothing but BUSY, DONE and ERR. -/
def Obligations.ErrorCommitsNothing : Prop :=
  (∀ s t : State, runPending s = .next t → t.err ≠ .ok →
    t = { s with busy := false, done := true, err := t.err }) ∧
  (∀ (i : Instr) (s t : State), exec i s = .next t → t.err ≠ .ok →
    t = { s with busy := false, done := true, err := t.err })

/-- R9, R29, R82, R88: what a command leaves unchanged. `buffersWritten` and `bytesStored` name the destination of each
command; every byte outside what it stores reads as before, and so does every register but its outputs. -/
def Obligations.CommandFrame : Prop :=
  ∀ (i : Instr) (s t : State), exec i s = .next t →
    (∀ k, k ∉ buffersWritten i → t.buf k = s.buf k) ∧
    (∀ k j, bytesStored i s k ≤ j → t.storeByte k j = s.storeByte k j) ∧
    (∀ k, k ∈ buffersWritten i → t.err = .ok → (t.buf k).len = bytesStored i s k) ∧
    (i ≠ .setmk → t.marker = s.marker ∧ t.mkv = s.mkv) ∧
    ((∀ k, i ≠ .crc k) → t.crcRes = s.crcRes) ∧
    (i ≠ .dec → t.fMark = s.fMark ∧ t.fVer = s.fVer ∧ t.fCrc = s.fCrc ∧ t.fLen = s.fLen) ∧
    t.bufSel = s.bufSel ∧ t.bufPtr = s.bufPtr ∧ t.ovr = s.ovr ∧ t.haz = s.haz ∧ t.pending = s.pending ∧
    t.params = s.params ∧ t.epoch = s.epoch ∧ t.hostQueue = s.hostQueue ∧ t.turns = s.turns ∧ t.replies = s.replies

/-- R204: OVR and HAZ, once set, stay set unless the host writes STATUS or there is a reset. -/
def Obligations.HostErrorFlagsAreSticky : Prop :=
  ∀ s t : State, step s = .next t → ¬ s.resetsNext →
    ¬ (s.nextTurn = .host ∧ ∃ a v rest, s.hostQueue = .write a v :: rest ∧ Reg.at s.params.base a = .status) →
    (s.ovr = true → t.ovr = true) ∧ (s.haz = true → t.haz = true)

/-! ## Reset and the invariant (70_reset_and_hazards.md) -/

/-- R230: what reset leaves. (PENDING's value, log 6, the draw's index, log 2, and the parameters' values, log 1, are the
model's and are not said here.) -/
def Obligations.ResetLeavesTheResetValues : Prop :=
  ∀ t : State, t = State.reset ∨ (∃ s : State, t = s.resetBlock) →
    t.busy = false ∧ t.done = false ∧ t.ovr = false ∧ t.haz = false ∧ t.err = .ok ∧ t.marker = 0#8 ∧ t.mkv = false ∧
    t.fMark = 0#8 ∧ t.fVer = 0#8 ∧ t.fCrc = 0#32 ∧ t.fLen = 0#64 ∧ t.crcRes = 0#32 ∧ t.bufSel = 0#3 ∧ t.bufPtr = 0#32 ∧
    (∀ k, (t.buf k).len = 0 ∧ t.content k = []) ∧ readReg .status t = (0x00000000#32, t) ∧
    readReg .id t = (0x46524D07#32, t)

/-- R231, R232: a write of 1 to CTRL's bit 0 resets the block at any time, in lockout too, as the reset input does; a command
in flight is gone, and its completion never comes. -/
def Obligations.SoftResetIsAReset : Prop :=
  (∀ (s : State) (v : Word), v.getLsbD 0 = true → writeReg .ctrl v s = s.resetBlock) ∧
  (∀ s : State, s.nextTurn = .reset → step s = .next s.takeTurn.resetBlock) ∧
  (∀ s t : State, s.resetsNext → step s = .next t → t.busy = false ∧ t.done = false ∧ t.err = .ok ∧
    (t.nextTurn = .engine → step t = .next t.takeTurn))

/-- R24, R33, R6: the invariant holds at reset. -/
def Obligations.InvariantHoldsAtReset : Prop := State.reset.Inv

/-- R24, R33, R87: every step keeps the invariant: legal capacities, LEN ≤ CAP and a canonical storage within CAP for every
buffer, MARKER and MKV as R24 says, and no outcome shown while a command is in flight. -/
def Obligations.EveryStepKeepsTheInvariant : Prop :=
  ∀ s t : State, s.Inv → step s = .next t → t.Inv
end

