-- ==== Sys2Proof/Laws/Decode.lean ====
section
/-! SUPPORT. Laws/Decode.lean: a command word and its fields determine each other, and so do a buffer and its number. -/

namespace Sys2Proof

theorem fieldsOf_wordOf (f : CommandFields) : fieldsOf (wordOf f) = f := by
  obtain ⟨opc, src, dst, rsv⟩ := f
  simp only [fieldsOf, wordOf, CommandFields.mk.injEq]
  refine ⟨?_, ?_, ?_, ?_⟩ <;>
    (apply BitVec.eq_of_getLsbD_eq; intro i hi
     simp only [BitVec.getLsbD_extractLsb', BitVec.getLsbD_append]; grind)

theorem wordOf_fieldsOf (w : Word) : wordOf (fieldsOf w) = w := by
  simp only [fieldsOf, wordOf]
  apply BitVec.eq_of_getLsbD_eq; intro i hi
  simp only [BitVec.getLsbD_extractLsb', BitVec.getLsbD_append]; grind

theorem BufId.ofNum_num (k : BufId) : BufId.ofNum? k.num = some k := by cases k <;> rfl

theorem BufId.eq_num_of_ofNum {n : Nat} {k : BufId} (h : BufId.ofNum? n = some k) : n = k.num := by
  unfold BufId.ofNum? at h
  split at h <;> cases h <;> rfl

theorem BufId.ofNum_eq_none_iff (n : Nat) : BufId.ofNum? n = none ↔ 5 ≤ n := by
  unfold BufId.ofNum?
  split <;> simp_all
  omega

theorem BufId.num_le (k : BufId) : k.num ≤ 4 := by cases k <;> decide

@[simp] theorem BufId.ofField_field (k : BufId) : BufId.ofField k.field = .ok k := by cases k <;> rfl

theorem BufId.eq_field_of_ofField {f : BitVec 4} {k : BufId} (h : BufId.ofField f = .ok k) : f = k.field := by
  unfold BufId.ofField at h
  split at h
  · rename_i h'; cases h; rw [BufId.field, ← BufId.eq_num_of_ofNum h']; simp
  · cases h

/-- The error of an operand field is (d) of R84, exactly when the field is above 4. -/
theorem BufId.ofField_cases (f : BitVec 4) :
    (f.toNat ≤ 4 ∧ ∃ k : BufId, f = k.field ∧ BufId.ofField f = .ok k) ∨ (5 ≤ f.toNat ∧ BufId.ofField f = .error .bufferId) := by
  unfold BufId.ofField
  cases h : BufId.ofNum? f.toNat with
  | none => exact .inr ⟨(BufId.ofNum_eq_none_iff _).1 h, rfl⟩
  | some k =>
    have e := BufId.eq_num_of_ofNum h
    exact .inl ⟨by have := k.num_le; omega, k, by rw [BufId.field, ← e]; simp, rfl⟩

end Sys2Proof
end

