-- ==== Sys2Proof/Laws/Frame.lean ====
section
/-! SUPPORT. Laws/Frame.lean: the big-endian conversions invert each other, and each field of a frame stands where R140 puts
it. -/

namespace Sys2Proof.Machine

@[simp] theorem length_be32 (v : Word) : (be32 v).length = 4 := rfl
@[simp] theorem length_be64 (v : BitVec 64) : (be64 v).length = 8 := rfl

theorem fromBe_be32 (v : Word) : fromBe (be32 v) = v.toNat := by
  have : v.toNat < 2 ^ 32 := v.isLt
  simp only [fromBe, be32, List.foldl, BitVec.extractLsb'_toNat, Nat.shiftRight_eq_div_pow]
  omega

theorem fromBe_be64 (v : BitVec 64) : fromBe (be64 v) = v.toNat := by
  have : v.toNat < 2 ^ 64 := v.isLt
  simp only [fromBe, be64, List.foldl, BitVec.extractLsb'_toNat, Nat.shiftRight_eq_div_pow]
  omega

theorem length_frameBytes (m : Byte) (h : Bytes) (v : Byte) (c : Word) (n : BitVec 64) (x : Bytes) :
    (frameBytes m h v c n x).length = 15 + 2 * h.length + x.length := by
  simp [frameBytes]; omega

/-- The slice that follows a front part of known length. -/
theorem slice_after {a b c : Bytes} {i j : Nat} (hi : a.length = i) (hj : i + b.length = j) :
    slice (a ++ (b ++ c)) i j = b := by
  subst hi hj
  simp [slice]

section
variable {m : Byte} {h : Bytes} {v : Byte} {c : Word} {n : BitVec 64} {x : Bytes}

@[simp] theorem frameMark_frameBytes : frameMark (frameBytes m h v c n x) = m := rfl

theorem frameHeader_frameBytes (hh : h.length = 10) : frameHeader (frameBytes m h v c n x) = h := by
  have e : frameBytes m h v c n x = [m] ++ (h ++ ([v] ++ be32 c ++ be64 n ++ x ++ h ++ [m])) := by
    simp [frameBytes, List.append_assoc]
  rw [frameHeader, e]; exact slice_after rfl (by omega)

theorem frameVersion_frameBytes (hh : h.length = 10) : frameVersion (frameBytes m h v c n x) = v := by
  have e : frameBytes m h v c n x = ([m] ++ h) ++ v :: (be32 c ++ be64 n ++ x ++ h ++ [m]) := by
    simp [frameBytes, List.append_assoc]
  rw [frameVersion, e, List.getD_append_right _ _ _ _ (by simp [hh])]
  simp [hh]

theorem frameChecksum_frameBytes (hh : h.length = 10) : frameChecksum (frameBytes m h v c n x) = c := by
  have e : frameBytes m h v c n x = ([m] ++ h ++ [v]) ++ (be32 c ++ (be64 n ++ x ++ h ++ [m])) := by
    simp [frameBytes, List.append_assoc]
  rw [frameChecksum, e, slice_after (i := 12) (j := 16) (by simp [hh]) (by simp), fromBe_be32]; simp

theorem frameLength_frameBytes (hh : h.length = 10) : frameLength (frameBytes m h v c n x) = n := by
  have e : frameBytes m h v c n x = ([m] ++ h ++ [v] ++ be32 c) ++ (be64 n ++ (x ++ h ++ [m])) := by
    simp [frameBytes, List.append_assoc]
  rw [frameLength, e, slice_after (i := 16) (j := 24) (by simp [hh]) (by simp), fromBe_be64]; simp

theorem frameRegion_frameBytes (hh : h.length = 10) : frameRegion (frameBytes m h v c n x) = x := by
  have l := length_frameBytes m h v c n x
  have e : frameBytes m h v c n x = ([m] ++ h ++ [v] ++ be32 c ++ be64 n) ++ (x ++ (h ++ [m])) := by
    simp [frameBytes, List.append_assoc]
  rw [frameRegion, l, e]; exact slice_after (by simp [hh]) (by omega)

end

@[simp] theorem length_frameHeader {w : Bytes} (h : 11 ≤ w.length) : (frameHeader w).length = 10 := by
  simp [frameHeader, slice]; omega

theorem fromBe_lt (x : Bytes) : fromBe x < 256 ^ x.length := by
  suffices h : ∀ a, x.foldl (fun acc b => acc * 256 + b.toNat) a < (a + 1) * 256 ^ x.length by simpa [fromBe] using h 0
  induction x with
  | nil => simp
  | cons b x ih =>
    intro a
    refine (ih _).trans_le ?_
    have h : b.toNat < 256 := b.isLt
    rw [List.length_cons, pow_succ']
    calc (a * 256 + b.toNat + 1) * 256 ^ x.length ≤ ((a + 1) * 256) * 256 ^ x.length := Nat.mul_le_mul_right _ (by omega)
      _ = (a + 1) * (256 * 256 ^ x.length) := by ring

/-- The fields of any frame of 35 bytes and more, by position (R140, R150). -/
structure FrameParts (w : Bytes) (mk ver : Byte) (h ck ln x : Bytes) : Prop where
  length : w.length = 35 + x.length
  mark : frameMark w = mk
  header : frameHeader w = h
  version : frameVersion w = ver
  checksum : (frameChecksum w).toNat = fromBe ck
  lengthField : (frameLength w).toNat = fromBe ln
  region : frameRegion w = x

theorem frameParts {mk ver : Byte} {h ck ln x z : Bytes} (hh : h.length = 10) (hc : ck.length = 4) (hl : ln.length = 8)
    (hz : z.length = 11) : FrameParts ([mk] ++ h ++ [ver] ++ ck ++ ln ++ x ++ z) mk ver h ck ln x := by
  have e1 : [mk] ++ h ++ [ver] ++ ck ++ ln ++ x ++ z = [mk] ++ (h ++ ([ver] ++ ck ++ ln ++ x ++ z)) := by simp
  have e2 : [mk] ++ h ++ [ver] ++ ck ++ ln ++ x ++ z = ([mk] ++ h) ++ ver :: (ck ++ ln ++ x ++ z) := by simp
  have e3 : [mk] ++ h ++ [ver] ++ ck ++ ln ++ x ++ z = ([mk] ++ h ++ [ver]) ++ (ck ++ (ln ++ x ++ z)) := by simp
  have e4 : [mk] ++ h ++ [ver] ++ ck ++ ln ++ x ++ z = ([mk] ++ h ++ [ver] ++ ck) ++ (ln ++ (x ++ z)) := by simp
  have e5 : [mk] ++ h ++ [ver] ++ ck ++ ln ++ x ++ z = ([mk] ++ h ++ [ver] ++ ck ++ ln) ++ (x ++ z) := by simp
  have n : ([mk] ++ h ++ [ver] ++ ck ++ ln ++ x ++ z).length = 35 + x.length := by simp [hh, hc, hl, hz]; omega
  refine ⟨n, rfl, ?_, ?_, ?_, ?_, ?_⟩
  · rw [frameHeader, e1, slice_after (i := 1) (j := 11) rfl (by omega)]
  · rw [frameVersion, e2, List.getD_append_right _ _ _ _ (by simp [hh])]; simp [hh]
  · rw [frameChecksum, e3, slice_after (i := 12) (j := 16) (by simp [hh]) (by omega)]
    have := fromBe_lt ck; rw [hc] at this; simp; omega
  · rw [frameLength, e4, slice_after (i := 16) (j := 24) (by simp [hh, hc]) (by omega)]
    have := fromBe_lt ln; rw [hl] at this; simp; omega
  · rw [frameRegion, n, e5, slice_after (i := 24) (by simp [hh, hc, hl]) (by omega)]

end Sys2Proof.Machine
end

