-- ==== Sys2Proof/Laws/Memory.lean ====
section
/-! SUPPORT. Laws/Memory.lean: what the storage operations do, byte by byte, and that they keep the canonical form. -/

namespace Sys2Proof.Machine.Memory

@[simp] theorem read_nil (j : Nat) : read [] j = none := rfl

theorem read_cons (i : Nat) (b : Byte) (m : Memory) (j : Nat) :
    read ((i, b) :: m) j = if i = j then some b else read m j := rfl

theorem read_write (m : Memory) (i j : Nat) (v : Byte) :
    read (write m i v) j = if i = j then some v else read m j := by
  induction m with
  | nil => simp [write, read_cons]
  | cons c m ih =>
    obtain ⟨k, b⟩ := c
    simp only [write]
    split
    · simp [read_cons]
    · split
      · subst_vars; simp only [read_cons]; split <;> rfl
      · rename_i h1 h2
        simp only [read_cons, ih]
        split
        · subst_vars; split
          · omega
          · rfl
        · rfl

@[simp] theorem read_write_same (m : Memory) (i : Nat) (v : Byte) : read (write m i v) i = some v := by
  simp [read_write]

theorem read_write_other (m : Memory) {i j : Nat} (v : Byte) (h : i ≠ j) : read (write m i v) j = read m j := by
  simp [read_write, h]

/-- The canonical form, said as the library's order predicate on the indices. -/
theorem wf_iff (m : Memory) : m.wf = true ↔ (m.map Prod.fst).Pairwise (· < ·) := by
  rw [← List.isChain_iff_pairwise]
  induction m with
  | nil => simp [wf]
  | cons c m ih =>
    cases m with
    | nil => simp [wf]
    | cons d m =>
      obtain ⟨i, a⟩ := c; obtain ⟨j, b⟩ := d
      simp only [wf, Bool.and_eq_true, decide_eq_true_eq, ih, List.map_cons, List.isChain_cons_cons]

theorem mem_write {m : Memory} {i : Nat} {v : Byte} {c : Host.Cell} (h : c ∈ write m i v) : c = (i, v) ∨ c ∈ m := by
  induction m with
  | nil => simpa [write] using h
  | cons d m ih =>
    obtain ⟨k, b⟩ := d
    simp only [write] at h
    split at h
    · simpa using h
    · split at h
      · simp only [List.mem_cons] at h ⊢; tauto
      · simp only [List.mem_cons] at h ⊢
        rcases h with h | h
        · tauto
        · rcases ih h with h | h <;> tauto

theorem wf_write {m : Memory} (i : Nat) (v : Byte) (h : m.wf = true) : (write m i v).wf = true := by
  rw [wf_iff] at h ⊢
  induction m with
  | nil => simp [write]
  | cons d m ih =>
    obtain ⟨k, b⟩ := d
    simp only [List.map_cons, List.pairwise_cons] at h
    simp only [write]
    split
    · simp only [List.map_cons, List.pairwise_cons, List.mem_cons, forall_eq_or_imp]
      refine ⟨⟨by assumption, fun a ha => ?_⟩, h⟩
      have := h.1 a ha; omega
    · split
      · subst_vars; simpa using h
      · simp only [List.map_cons, List.pairwise_cons]
        refine ⟨fun a ha => ?_, ih h.2⟩
        obtain ⟨c, hc, rfl⟩ := List.mem_map.1 ha
        rcases mem_write hc with rfl | hc
        · show k < i; omega
        · exact h.1 _ (List.mem_map_of_mem hc)

theorem read_cellsFrom (x : Bytes) (i j : Nat) :
    read (cellsFrom i x) j = if i ≤ j then x[j - i]? else none := by
  induction x generalizing i with
  | nil => simp [cellsFrom]
  | cons b x ih =>
    simp only [cellsFrom, read_cons, ih]
    split
    · subst_vars; simp
    · split
      · have : j - i = (j - (i + 1)) + 1 := by omega
        rw [if_pos (by omega), this]; simp
      · rw [if_neg (by omega)]

theorem read_append (m n : Memory) (j : Nat) : read (m ++ n) j = (read m j).or (read n j) := by
  induction m with
  | nil => simp
  | cons c m ih =>
    obtain ⟨i, b⟩ := c
    simp only [List.cons_append, read_cons, ih]
    split <;> simp

theorem read_filter_ge (m : Memory) (n j : Nat) :
    read (m.filter fun c => decide (n ≤ c.1)) j = if n ≤ j then read m j else none := by
  induction m with
  | nil => simp
  | cons c m ih =>
    obtain ⟨i, b⟩ := c
    simp only [List.filter_cons]
    split
    · rename_i h
      simp only [decide_eq_true_eq] at h
      simp only [read_cons, ih]
      split
      · subst_vars; simp [h]
      · rfl
    · rename_i h
      simp only [decide_eq_true_eq] at h
      simp only [ih, read_cons]
      split
      · rw [if_neg (by omega)]
      · rfl

/-- `setbuf` byte by byte: the sequence at its own indices, the old bytes elsewhere (R9). -/
theorem read_overwrite (m : Memory) (x : Bytes) (j : Nat) :
    read (m.overwrite x) j = if h : j < x.length then some x[j] else read m j := by
  simp only [overwrite, read_append, read_cellsFrom, read_filter_ge, Nat.zero_le, if_true, Nat.sub_zero]
  by_cases h : j < x.length
  · rw [dif_pos h, List.getElem?_eq_getElem h, Option.some_or]
  · rw [dif_neg h, List.getElem?_eq_none (by omega), if_pos (by omega), Option.none_or]

theorem mem_cellsFrom {x : Bytes} {i : Nat} {c : Host.Cell} (h : c ∈ cellsFrom i x) :
    i ≤ c.1 ∧ c.1 < i + x.length := by
  induction x generalizing i with
  | nil => simp [cellsFrom] at h
  | cons b x ih =>
    simp only [cellsFrom, List.mem_cons] at h
    rcases h with rfl | h
    · simp
    · have := ih h; simp only [List.length_cons]; omega

theorem mem_overwrite {m : Memory} {x : Bytes} {c : Host.Cell} (h : c ∈ m.overwrite x) :
    c.1 < x.length ∨ c ∈ m := by
  simp only [overwrite, List.mem_append, List.mem_filter] at h
  rcases h with h | h
  · left; have := mem_cellsFrom h; omega
  · exact .inr h.1

theorem pairwise_cellsFrom (x : Bytes) (i : Nat) : ((cellsFrom i x).map Prod.fst).Pairwise (· < ·) := by
  induction x generalizing i with
  | nil => simp [cellsFrom]
  | cons b x ih =>
    simp only [cellsFrom, List.map_cons, List.pairwise_cons]
    refine ⟨fun a ha => ?_, ih _⟩
    obtain ⟨c, hc, rfl⟩ := List.mem_map.1 ha
    have := mem_cellsFrom hc; omega

theorem wf_overwrite {m : Memory} (x : Bytes) (h : m.wf = true) : (m.overwrite x).wf = true := by
  rw [wf_iff] at h ⊢
  simp only [overwrite, List.map_append, List.pairwise_append]
  refine ⟨pairwise_cellsFrom x 0, ?_, ?_⟩
  · exact h.sublist (List.filter_sublist.map _)
  · intro a ha b hb
    obtain ⟨c, hc, rfl⟩ := List.mem_map.1 ha
    obtain ⟨d, hd, rfl⟩ := List.mem_map.1 hb
    have := mem_cellsFrom hc
    simp only [List.mem_filter, decide_eq_true_eq] at hd
    omega

end Sys2Proof.Machine.Memory
end

