-- ==== Sys2Proof/Laws/State.lean ====
section
/-! SUPPORT. Laws/State.lean: one lemma per field per named update of the state, so that no proof unfolds a record update. -/

namespace Sys2Proof.Machine

@[simp] theorem finish_params (s : State) (c : Status) : (s.finish c).params = s.params := rfl
@[simp] theorem finish_marker (s : State) (c : Status) : (s.finish c).marker = s.marker := rfl
@[simp] theorem finish_mkv (s : State) (c : Status) : (s.finish c).mkv = s.mkv := rfl
@[simp] theorem finish_fMark (s : State) (c : Status) : (s.finish c).fMark = s.fMark := rfl
@[simp] theorem finish_fVer (s : State) (c : Status) : (s.finish c).fVer = s.fVer := rfl
@[simp] theorem finish_fCrc (s : State) (c : Status) : (s.finish c).fCrc = s.fCrc := rfl
@[simp] theorem finish_fLen (s : State) (c : Status) : (s.finish c).fLen = s.fLen := rfl
@[simp] theorem finish_crcRes (s : State) (c : Status) : (s.finish c).crcRes = s.crcRes := rfl
@[simp] theorem finish_bufSel (s : State) (c : Status) : (s.finish c).bufSel = s.bufSel := rfl
@[simp] theorem finish_bufPtr (s : State) (c : Status) : (s.finish c).bufPtr = s.bufPtr := rfl
@[simp] theorem finish_hdr (s : State) (c : Status) : (s.finish c).hdr = s.hdr := rfl
@[simp] theorem finish_data (s : State) (c : Status) : (s.finish c).data = s.data := rfl
@[simp] theorem finish_wire (s : State) (c : Status) : (s.finish c).wire = s.wire := rfl
@[simp] theorem finish_arg0 (s : State) (c : Status) : (s.finish c).arg0 = s.arg0 := rfl
@[simp] theorem finish_arg1 (s : State) (c : Status) : (s.finish c).arg1 = s.arg1 := rfl
@[simp] theorem finish_busy (s : State) (c : Status) : (s.finish c).busy = false := rfl
@[simp] theorem finish_pending (s : State) (c : Status) : (s.finish c).pending = s.pending := rfl
@[simp] theorem finish_done (s : State) (c : Status) : (s.finish c).done = true := rfl
@[simp] theorem finish_ovr (s : State) (c : Status) : (s.finish c).ovr = s.ovr := rfl
@[simp] theorem finish_haz (s : State) (c : Status) : (s.finish c).haz = s.haz := rfl
@[simp] theorem finish_err (s : State) (c : Status) : (s.finish c).err = c := rfl
@[simp] theorem finish_epoch (s : State) (c : Status) : (s.finish c).epoch = s.epoch := rfl
@[simp] theorem finish_hostQueue (s : State) (c : Status) : (s.finish c).hostQueue = s.hostQueue := rfl
@[simp] theorem finish_turns (s : State) (c : Status) : (s.finish c).turns = s.turns := rfl
@[simp] theorem finish_replies (s : State) (c : Status) : (s.finish c).replies = s.replies := rfl

@[simp] theorem accept_params (s : State) (w : Word) : (s.accept w).params = s.params := rfl
@[simp] theorem accept_marker (s : State) (w : Word) : (s.accept w).marker = s.marker := rfl
@[simp] theorem accept_mkv (s : State) (w : Word) : (s.accept w).mkv = s.mkv := rfl
@[simp] theorem accept_fMark (s : State) (w : Word) : (s.accept w).fMark = s.fMark := rfl
@[simp] theorem accept_fVer (s : State) (w : Word) : (s.accept w).fVer = s.fVer := rfl
@[simp] theorem accept_fCrc (s : State) (w : Word) : (s.accept w).fCrc = s.fCrc := rfl
@[simp] theorem accept_fLen (s : State) (w : Word) : (s.accept w).fLen = s.fLen := rfl
@[simp] theorem accept_crcRes (s : State) (w : Word) : (s.accept w).crcRes = s.crcRes := rfl
@[simp] theorem accept_bufSel (s : State) (w : Word) : (s.accept w).bufSel = s.bufSel := rfl
@[simp] theorem accept_bufPtr (s : State) (w : Word) : (s.accept w).bufPtr = s.bufPtr := rfl
@[simp] theorem accept_hdr (s : State) (w : Word) : (s.accept w).hdr = s.hdr := rfl
@[simp] theorem accept_data (s : State) (w : Word) : (s.accept w).data = s.data := rfl
@[simp] theorem accept_wire (s : State) (w : Word) : (s.accept w).wire = s.wire := rfl
@[simp] theorem accept_arg0 (s : State) (w : Word) : (s.accept w).arg0 = s.arg0 := rfl
@[simp] theorem accept_arg1 (s : State) (w : Word) : (s.accept w).arg1 = s.arg1 := rfl
@[simp] theorem accept_busy (s : State) (w : Word) : (s.accept w).busy = true := rfl
@[simp] theorem accept_pending (s : State) (w : Word) : (s.accept w).pending = w := rfl
@[simp] theorem accept_done (s : State) (w : Word) : (s.accept w).done = false := rfl
@[simp] theorem accept_ovr (s : State) (w : Word) : (s.accept w).ovr = s.ovr := rfl
@[simp] theorem accept_haz (s : State) (w : Word) : (s.accept w).haz = s.haz := rfl
@[simp] theorem accept_err (s : State) (w : Word) : (s.accept w).err = .ok := rfl
@[simp] theorem accept_epoch (s : State) (w : Word) : (s.accept w).epoch = s.epoch := rfl
@[simp] theorem accept_hostQueue (s : State) (w : Word) : (s.accept w).hostQueue = s.hostQueue := rfl
@[simp] theorem accept_turns (s : State) (w : Word) : (s.accept w).turns = s.turns := rfl
@[simp] theorem accept_replies (s : State) (w : Word) : (s.accept w).replies = s.replies := rfl

@[simp] theorem setOvr_params (s : State) : (s.setOvr).params = s.params := rfl
@[simp] theorem setOvr_marker (s : State) : (s.setOvr).marker = s.marker := rfl
@[simp] theorem setOvr_mkv (s : State) : (s.setOvr).mkv = s.mkv := rfl
@[simp] theorem setOvr_fMark (s : State) : (s.setOvr).fMark = s.fMark := rfl
@[simp] theorem setOvr_fVer (s : State) : (s.setOvr).fVer = s.fVer := rfl
@[simp] theorem setOvr_fCrc (s : State) : (s.setOvr).fCrc = s.fCrc := rfl
@[simp] theorem setOvr_fLen (s : State) : (s.setOvr).fLen = s.fLen := rfl
@[simp] theorem setOvr_crcRes (s : State) : (s.setOvr).crcRes = s.crcRes := rfl
@[simp] theorem setOvr_bufSel (s : State) : (s.setOvr).bufSel = s.bufSel := rfl
@[simp] theorem setOvr_bufPtr (s : State) : (s.setOvr).bufPtr = s.bufPtr := rfl
@[simp] theorem setOvr_hdr (s : State) : (s.setOvr).hdr = s.hdr := rfl
@[simp] theorem setOvr_data (s : State) : (s.setOvr).data = s.data := rfl
@[simp] theorem setOvr_wire (s : State) : (s.setOvr).wire = s.wire := rfl
@[simp] theorem setOvr_arg0 (s : State) : (s.setOvr).arg0 = s.arg0 := rfl
@[simp] theorem setOvr_arg1 (s : State) : (s.setOvr).arg1 = s.arg1 := rfl
@[simp] theorem setOvr_busy (s : State) : (s.setOvr).busy = s.busy := rfl
@[simp] theorem setOvr_pending (s : State) : (s.setOvr).pending = s.pending := rfl
@[simp] theorem setOvr_done (s : State) : (s.setOvr).done = s.done := rfl
@[simp] theorem setOvr_ovr (s : State) : (s.setOvr).ovr = true := rfl
@[simp] theorem setOvr_haz (s : State) : (s.setOvr).haz = s.haz := rfl
@[simp] theorem setOvr_err (s : State) : (s.setOvr).err = s.err := rfl
@[simp] theorem setOvr_epoch (s : State) : (s.setOvr).epoch = s.epoch := rfl
@[simp] theorem setOvr_hostQueue (s : State) : (s.setOvr).hostQueue = s.hostQueue := rfl
@[simp] theorem setOvr_turns (s : State) : (s.setOvr).turns = s.turns := rfl
@[simp] theorem setOvr_replies (s : State) : (s.setOvr).replies = s.replies := rfl

@[simp] theorem setHaz_params (s : State) : (s.setHaz).params = s.params := rfl
@[simp] theorem setHaz_marker (s : State) : (s.setHaz).marker = s.marker := rfl
@[simp] theorem setHaz_mkv (s : State) : (s.setHaz).mkv = s.mkv := rfl
@[simp] theorem setHaz_fMark (s : State) : (s.setHaz).fMark = s.fMark := rfl
@[simp] theorem setHaz_fVer (s : State) : (s.setHaz).fVer = s.fVer := rfl
@[simp] theorem setHaz_fCrc (s : State) : (s.setHaz).fCrc = s.fCrc := rfl
@[simp] theorem setHaz_fLen (s : State) : (s.setHaz).fLen = s.fLen := rfl
@[simp] theorem setHaz_crcRes (s : State) : (s.setHaz).crcRes = s.crcRes := rfl
@[simp] theorem setHaz_bufSel (s : State) : (s.setHaz).bufSel = s.bufSel := rfl
@[simp] theorem setHaz_bufPtr (s : State) : (s.setHaz).bufPtr = s.bufPtr := rfl
@[simp] theorem setHaz_hdr (s : State) : (s.setHaz).hdr = s.hdr := rfl
@[simp] theorem setHaz_data (s : State) : (s.setHaz).data = s.data := rfl
@[simp] theorem setHaz_wire (s : State) : (s.setHaz).wire = s.wire := rfl
@[simp] theorem setHaz_arg0 (s : State) : (s.setHaz).arg0 = s.arg0 := rfl
@[simp] theorem setHaz_arg1 (s : State) : (s.setHaz).arg1 = s.arg1 := rfl
@[simp] theorem setHaz_busy (s : State) : (s.setHaz).busy = s.busy := rfl
@[simp] theorem setHaz_pending (s : State) : (s.setHaz).pending = s.pending := rfl
@[simp] theorem setHaz_done (s : State) : (s.setHaz).done = s.done := rfl
@[simp] theorem setHaz_ovr (s : State) : (s.setHaz).ovr = s.ovr := rfl
@[simp] theorem setHaz_haz (s : State) : (s.setHaz).haz = true := rfl
@[simp] theorem setHaz_err (s : State) : (s.setHaz).err = s.err := rfl
@[simp] theorem setHaz_epoch (s : State) : (s.setHaz).epoch = s.epoch := rfl
@[simp] theorem setHaz_hostQueue (s : State) : (s.setHaz).hostQueue = s.hostQueue := rfl
@[simp] theorem setHaz_turns (s : State) : (s.setHaz).turns = s.turns := rfl
@[simp] theorem setHaz_replies (s : State) : (s.setHaz).replies = s.replies := rfl

@[simp] theorem advancePtr_params (s : State) : (s.advancePtr).params = s.params := rfl
@[simp] theorem advancePtr_marker (s : State) : (s.advancePtr).marker = s.marker := rfl
@[simp] theorem advancePtr_mkv (s : State) : (s.advancePtr).mkv = s.mkv := rfl
@[simp] theorem advancePtr_fMark (s : State) : (s.advancePtr).fMark = s.fMark := rfl
@[simp] theorem advancePtr_fVer (s : State) : (s.advancePtr).fVer = s.fVer := rfl
@[simp] theorem advancePtr_fCrc (s : State) : (s.advancePtr).fCrc = s.fCrc := rfl
@[simp] theorem advancePtr_fLen (s : State) : (s.advancePtr).fLen = s.fLen := rfl
@[simp] theorem advancePtr_crcRes (s : State) : (s.advancePtr).crcRes = s.crcRes := rfl
@[simp] theorem advancePtr_bufSel (s : State) : (s.advancePtr).bufSel = s.bufSel := rfl
@[simp] theorem advancePtr_bufPtr (s : State) : (s.advancePtr).bufPtr = s.bufPtr + 1#32 := rfl
@[simp] theorem advancePtr_hdr (s : State) : (s.advancePtr).hdr = s.hdr := rfl
@[simp] theorem advancePtr_data (s : State) : (s.advancePtr).data = s.data := rfl
@[simp] theorem advancePtr_wire (s : State) : (s.advancePtr).wire = s.wire := rfl
@[simp] theorem advancePtr_arg0 (s : State) : (s.advancePtr).arg0 = s.arg0 := rfl
@[simp] theorem advancePtr_arg1 (s : State) : (s.advancePtr).arg1 = s.arg1 := rfl
@[simp] theorem advancePtr_busy (s : State) : (s.advancePtr).busy = s.busy := rfl
@[simp] theorem advancePtr_pending (s : State) : (s.advancePtr).pending = s.pending := rfl
@[simp] theorem advancePtr_done (s : State) : (s.advancePtr).done = s.done := rfl
@[simp] theorem advancePtr_ovr (s : State) : (s.advancePtr).ovr = s.ovr := rfl
@[simp] theorem advancePtr_haz (s : State) : (s.advancePtr).haz = s.haz := rfl
@[simp] theorem advancePtr_err (s : State) : (s.advancePtr).err = s.err := rfl
@[simp] theorem advancePtr_epoch (s : State) : (s.advancePtr).epoch = s.epoch := rfl
@[simp] theorem advancePtr_hostQueue (s : State) : (s.advancePtr).hostQueue = s.hostQueue := rfl
@[simp] theorem advancePtr_turns (s : State) : (s.advancePtr).turns = s.turns := rfl
@[simp] theorem advancePtr_replies (s : State) : (s.advancePtr).replies = s.replies := rfl

@[simp] theorem takeTurn_params (s : State) : (s.takeTurn).params = s.params := rfl
@[simp] theorem takeTurn_marker (s : State) : (s.takeTurn).marker = s.marker := rfl
@[simp] theorem takeTurn_mkv (s : State) : (s.takeTurn).mkv = s.mkv := rfl
@[simp] theorem takeTurn_fMark (s : State) : (s.takeTurn).fMark = s.fMark := rfl
@[simp] theorem takeTurn_fVer (s : State) : (s.takeTurn).fVer = s.fVer := rfl
@[simp] theorem takeTurn_fCrc (s : State) : (s.takeTurn).fCrc = s.fCrc := rfl
@[simp] theorem takeTurn_fLen (s : State) : (s.takeTurn).fLen = s.fLen := rfl
@[simp] theorem takeTurn_crcRes (s : State) : (s.takeTurn).crcRes = s.crcRes := rfl
@[simp] theorem takeTurn_bufSel (s : State) : (s.takeTurn).bufSel = s.bufSel := rfl
@[simp] theorem takeTurn_bufPtr (s : State) : (s.takeTurn).bufPtr = s.bufPtr := rfl
@[simp] theorem takeTurn_hdr (s : State) : (s.takeTurn).hdr = s.hdr := rfl
@[simp] theorem takeTurn_data (s : State) : (s.takeTurn).data = s.data := rfl
@[simp] theorem takeTurn_wire (s : State) : (s.takeTurn).wire = s.wire := rfl
@[simp] theorem takeTurn_arg0 (s : State) : (s.takeTurn).arg0 = s.arg0 := rfl
@[simp] theorem takeTurn_arg1 (s : State) : (s.takeTurn).arg1 = s.arg1 := rfl
@[simp] theorem takeTurn_busy (s : State) : (s.takeTurn).busy = s.busy := rfl
@[simp] theorem takeTurn_pending (s : State) : (s.takeTurn).pending = s.pending := rfl
@[simp] theorem takeTurn_done (s : State) : (s.takeTurn).done = s.done := rfl
@[simp] theorem takeTurn_ovr (s : State) : (s.takeTurn).ovr = s.ovr := rfl
@[simp] theorem takeTurn_haz (s : State) : (s.takeTurn).haz = s.haz := rfl
@[simp] theorem takeTurn_err (s : State) : (s.takeTurn).err = s.err := rfl
@[simp] theorem takeTurn_epoch (s : State) : (s.takeTurn).epoch = s.epoch := rfl
@[simp] theorem takeTurn_hostQueue (s : State) : (s.takeTurn).hostQueue = s.hostQueue := rfl
@[simp] theorem takeTurn_turns (s : State) : (s.takeTurn).turns = s.turns.tail := rfl
@[simp] theorem takeTurn_replies (s : State) : (s.takeTurn).replies = s.replies := rfl

@[simp] theorem statusWrite_params (s : State) (v : Word) : (statusWrite v s).params = s.params := rfl
@[simp] theorem statusWrite_marker (s : State) (v : Word) : (statusWrite v s).marker = s.marker := rfl
@[simp] theorem statusWrite_mkv (s : State) (v : Word) : (statusWrite v s).mkv = s.mkv := rfl
@[simp] theorem statusWrite_fMark (s : State) (v : Word) : (statusWrite v s).fMark = s.fMark := rfl
@[simp] theorem statusWrite_fVer (s : State) (v : Word) : (statusWrite v s).fVer = s.fVer := rfl
@[simp] theorem statusWrite_fCrc (s : State) (v : Word) : (statusWrite v s).fCrc = s.fCrc := rfl
@[simp] theorem statusWrite_fLen (s : State) (v : Word) : (statusWrite v s).fLen = s.fLen := rfl
@[simp] theorem statusWrite_crcRes (s : State) (v : Word) : (statusWrite v s).crcRes = s.crcRes := rfl
@[simp] theorem statusWrite_bufSel (s : State) (v : Word) : (statusWrite v s).bufSel = s.bufSel := rfl
@[simp] theorem statusWrite_bufPtr (s : State) (v : Word) : (statusWrite v s).bufPtr = s.bufPtr := rfl
@[simp] theorem statusWrite_hdr (s : State) (v : Word) : (statusWrite v s).hdr = s.hdr := rfl
@[simp] theorem statusWrite_data (s : State) (v : Word) : (statusWrite v s).data = s.data := rfl
@[simp] theorem statusWrite_wire (s : State) (v : Word) : (statusWrite v s).wire = s.wire := rfl
@[simp] theorem statusWrite_arg0 (s : State) (v : Word) : (statusWrite v s).arg0 = s.arg0 := rfl
@[simp] theorem statusWrite_arg1 (s : State) (v : Word) : (statusWrite v s).arg1 = s.arg1 := rfl
@[simp] theorem statusWrite_busy (s : State) (v : Word) : (statusWrite v s).busy = s.busy := rfl
@[simp] theorem statusWrite_pending (s : State) (v : Word) : (statusWrite v s).pending = s.pending := rfl
@[simp] theorem statusWrite_done (s : State) (v : Word) : (statusWrite v s).done = (s.done && !v.getLsbD 1) := rfl
@[simp] theorem statusWrite_ovr (s : State) (v : Word) : (statusWrite v s).ovr = (s.ovr && !v.getLsbD 2) := rfl
@[simp] theorem statusWrite_haz (s : State) (v : Word) : (statusWrite v s).haz = (s.haz && !v.getLsbD 3) := rfl
@[simp] theorem statusWrite_err (s : State) (v : Word) : (statusWrite v s).err = s.err := rfl
@[simp] theorem statusWrite_epoch (s : State) (v : Word) : (statusWrite v s).epoch = s.epoch := rfl
@[simp] theorem statusWrite_hostQueue (s : State) (v : Word) : (statusWrite v s).hostQueue = s.hostQueue := rfl
@[simp] theorem statusWrite_turns (s : State) (v : Word) : (statusWrite v s).turns = s.turns := rfl
@[simp] theorem statusWrite_replies (s : State) (v : Word) : (statusWrite v s).replies = s.replies := rfl

@[simp] theorem resetBlock_params (s : State) : (s.resetBlock).params = s.params := rfl
@[simp] theorem resetBlock_marker (s : State) : (s.resetBlock).marker = 0#8 := rfl
@[simp] theorem resetBlock_mkv (s : State) : (s.resetBlock).mkv = false := rfl
@[simp] theorem resetBlock_fMark (s : State) : (s.resetBlock).fMark = 0#8 := rfl
@[simp] theorem resetBlock_fVer (s : State) : (s.resetBlock).fVer = 0#8 := rfl
@[simp] theorem resetBlock_fCrc (s : State) : (s.resetBlock).fCrc = 0#32 := rfl
@[simp] theorem resetBlock_fLen (s : State) : (s.resetBlock).fLen = 0#64 := rfl
@[simp] theorem resetBlock_crcRes (s : State) : (s.resetBlock).crcRes = 0#32 := rfl
@[simp] theorem resetBlock_bufSel (s : State) : (s.resetBlock).bufSel = 0#3 := rfl
@[simp] theorem resetBlock_bufPtr (s : State) : (s.resetBlock).bufPtr = 0#32 := rfl
@[simp] theorem resetBlock_hdr (s : State) : (s.resetBlock).hdr = Buffer.reset := rfl
@[simp] theorem resetBlock_data (s : State) : (s.resetBlock).data = Buffer.reset := rfl
@[simp] theorem resetBlock_wire (s : State) : (s.resetBlock).wire = Buffer.reset := rfl
@[simp] theorem resetBlock_arg0 (s : State) : (s.resetBlock).arg0 = Buffer.reset := rfl
@[simp] theorem resetBlock_arg1 (s : State) : (s.resetBlock).arg1 = Buffer.reset := rfl
@[simp] theorem resetBlock_busy (s : State) : (s.resetBlock).busy = false := rfl
@[simp] theorem resetBlock_pending (s : State) : (s.resetBlock).pending = 0#32 := rfl
@[simp] theorem resetBlock_done (s : State) : (s.resetBlock).done = false := rfl
@[simp] theorem resetBlock_ovr (s : State) : (s.resetBlock).ovr = false := rfl
@[simp] theorem resetBlock_haz (s : State) : (s.resetBlock).haz = false := rfl
@[simp] theorem resetBlock_err (s : State) : (s.resetBlock).err = .ok := rfl
@[simp] theorem resetBlock_epoch (s : State) : (s.resetBlock).epoch = s.epoch + 1 := rfl
@[simp] theorem resetBlock_hostQueue (s : State) : (s.resetBlock).hostQueue = s.hostQueue := rfl
@[simp] theorem resetBlock_turns (s : State) : (s.resetBlock).turns = s.turns := rfl
@[simp] theorem resetBlock_replies (s : State) : (s.resetBlock).replies = s.replies := rfl

@[simp] theorem setMarker_params (s : State) (v : Byte) : (s.setMarker v).params = s.params := rfl
@[simp] theorem setMarker_marker (s : State) (v : Byte) : (s.setMarker v).marker = v := rfl
@[simp] theorem setMarker_mkv (s : State) (v : Byte) : (s.setMarker v).mkv = true := rfl
@[simp] theorem setMarker_fMark (s : State) (v : Byte) : (s.setMarker v).fMark = s.fMark := rfl
@[simp] theorem setMarker_fVer (s : State) (v : Byte) : (s.setMarker v).fVer = s.fVer := rfl
@[simp] theorem setMarker_fCrc (s : State) (v : Byte) : (s.setMarker v).fCrc = s.fCrc := rfl
@[simp] theorem setMarker_fLen (s : State) (v : Byte) : (s.setMarker v).fLen = s.fLen := rfl
@[simp] theorem setMarker_crcRes (s : State) (v : Byte) : (s.setMarker v).crcRes = s.crcRes := rfl
@[simp] theorem setMarker_bufSel (s : State) (v : Byte) : (s.setMarker v).bufSel = s.bufSel := rfl
@[simp] theorem setMarker_bufPtr (s : State) (v : Byte) : (s.setMarker v).bufPtr = s.bufPtr := rfl
@[simp] theorem setMarker_hdr (s : State) (v : Byte) : (s.setMarker v).hdr = s.hdr := rfl
@[simp] theorem setMarker_data (s : State) (v : Byte) : (s.setMarker v).data = s.data := rfl
@[simp] theorem setMarker_wire (s : State) (v : Byte) : (s.setMarker v).wire = s.wire := rfl
@[simp] theorem setMarker_arg0 (s : State) (v : Byte) : (s.setMarker v).arg0 = s.arg0 := rfl
@[simp] theorem setMarker_arg1 (s : State) (v : Byte) : (s.setMarker v).arg1 = s.arg1 := rfl
@[simp] theorem setMarker_busy (s : State) (v : Byte) : (s.setMarker v).busy = s.busy := rfl
@[simp] theorem setMarker_pending (s : State) (v : Byte) : (s.setMarker v).pending = s.pending := rfl
@[simp] theorem setMarker_done (s : State) (v : Byte) : (s.setMarker v).done = s.done := rfl
@[simp] theorem setMarker_ovr (s : State) (v : Byte) : (s.setMarker v).ovr = s.ovr := rfl
@[simp] theorem setMarker_haz (s : State) (v : Byte) : (s.setMarker v).haz = s.haz := rfl
@[simp] theorem setMarker_err (s : State) (v : Byte) : (s.setMarker v).err = s.err := rfl
@[simp] theorem setMarker_epoch (s : State) (v : Byte) : (s.setMarker v).epoch = s.epoch := rfl
@[simp] theorem setMarker_hostQueue (s : State) (v : Byte) : (s.setMarker v).hostQueue = s.hostQueue := rfl
@[simp] theorem setMarker_turns (s : State) (v : Byte) : (s.setMarker v).turns = s.turns := rfl
@[simp] theorem setMarker_replies (s : State) (v : Byte) : (s.setMarker v).replies = s.replies := rfl

@[simp] theorem setCrcRes_params (s : State) (v : Word) : (s.setCrcRes v).params = s.params := rfl
@[simp] theorem setCrcRes_marker (s : State) (v : Word) : (s.setCrcRes v).marker = s.marker := rfl
@[simp] theorem setCrcRes_mkv (s : State) (v : Word) : (s.setCrcRes v).mkv = s.mkv := rfl
@[simp] theorem setCrcRes_fMark (s : State) (v : Word) : (s.setCrcRes v).fMark = s.fMark := rfl
@[simp] theorem setCrcRes_fVer (s : State) (v : Word) : (s.setCrcRes v).fVer = s.fVer := rfl
@[simp] theorem setCrcRes_fCrc (s : State) (v : Word) : (s.setCrcRes v).fCrc = s.fCrc := rfl
@[simp] theorem setCrcRes_fLen (s : State) (v : Word) : (s.setCrcRes v).fLen = s.fLen := rfl
@[simp] theorem setCrcRes_crcRes (s : State) (v : Word) : (s.setCrcRes v).crcRes = v := rfl
@[simp] theorem setCrcRes_bufSel (s : State) (v : Word) : (s.setCrcRes v).bufSel = s.bufSel := rfl
@[simp] theorem setCrcRes_bufPtr (s : State) (v : Word) : (s.setCrcRes v).bufPtr = s.bufPtr := rfl
@[simp] theorem setCrcRes_hdr (s : State) (v : Word) : (s.setCrcRes v).hdr = s.hdr := rfl
@[simp] theorem setCrcRes_data (s : State) (v : Word) : (s.setCrcRes v).data = s.data := rfl
@[simp] theorem setCrcRes_wire (s : State) (v : Word) : (s.setCrcRes v).wire = s.wire := rfl
@[simp] theorem setCrcRes_arg0 (s : State) (v : Word) : (s.setCrcRes v).arg0 = s.arg0 := rfl
@[simp] theorem setCrcRes_arg1 (s : State) (v : Word) : (s.setCrcRes v).arg1 = s.arg1 := rfl
@[simp] theorem setCrcRes_busy (s : State) (v : Word) : (s.setCrcRes v).busy = s.busy := rfl
@[simp] theorem setCrcRes_pending (s : State) (v : Word) : (s.setCrcRes v).pending = s.pending := rfl
@[simp] theorem setCrcRes_done (s : State) (v : Word) : (s.setCrcRes v).done = s.done := rfl
@[simp] theorem setCrcRes_ovr (s : State) (v : Word) : (s.setCrcRes v).ovr = s.ovr := rfl
@[simp] theorem setCrcRes_haz (s : State) (v : Word) : (s.setCrcRes v).haz = s.haz := rfl
@[simp] theorem setCrcRes_err (s : State) (v : Word) : (s.setCrcRes v).err = s.err := rfl
@[simp] theorem setCrcRes_epoch (s : State) (v : Word) : (s.setCrcRes v).epoch = s.epoch := rfl
@[simp] theorem setCrcRes_hostQueue (s : State) (v : Word) : (s.setCrcRes v).hostQueue = s.hostQueue := rfl
@[simp] theorem setCrcRes_turns (s : State) (v : Word) : (s.setCrcRes v).turns = s.turns := rfl
@[simp] theorem setCrcRes_replies (s : State) (v : Word) : (s.setCrcRes v).replies = s.replies := rfl

@[simp] theorem withQueue_params (s : State) (q : List HostOp) : (s.withQueue q).params = s.params := rfl
@[simp] theorem withQueue_marker (s : State) (q : List HostOp) : (s.withQueue q).marker = s.marker := rfl
@[simp] theorem withQueue_mkv (s : State) (q : List HostOp) : (s.withQueue q).mkv = s.mkv := rfl
@[simp] theorem withQueue_fMark (s : State) (q : List HostOp) : (s.withQueue q).fMark = s.fMark := rfl
@[simp] theorem withQueue_fVer (s : State) (q : List HostOp) : (s.withQueue q).fVer = s.fVer := rfl
@[simp] theorem withQueue_fCrc (s : State) (q : List HostOp) : (s.withQueue q).fCrc = s.fCrc := rfl
@[simp] theorem withQueue_fLen (s : State) (q : List HostOp) : (s.withQueue q).fLen = s.fLen := rfl
@[simp] theorem withQueue_crcRes (s : State) (q : List HostOp) : (s.withQueue q).crcRes = s.crcRes := rfl
@[simp] theorem withQueue_bufSel (s : State) (q : List HostOp) : (s.withQueue q).bufSel = s.bufSel := rfl
@[simp] theorem withQueue_bufPtr (s : State) (q : List HostOp) : (s.withQueue q).bufPtr = s.bufPtr := rfl
@[simp] theorem withQueue_hdr (s : State) (q : List HostOp) : (s.withQueue q).hdr = s.hdr := rfl
@[simp] theorem withQueue_data (s : State) (q : List HostOp) : (s.withQueue q).data = s.data := rfl
@[simp] theorem withQueue_wire (s : State) (q : List HostOp) : (s.withQueue q).wire = s.wire := rfl
@[simp] theorem withQueue_arg0 (s : State) (q : List HostOp) : (s.withQueue q).arg0 = s.arg0 := rfl
@[simp] theorem withQueue_arg1 (s : State) (q : List HostOp) : (s.withQueue q).arg1 = s.arg1 := rfl
@[simp] theorem withQueue_busy (s : State) (q : List HostOp) : (s.withQueue q).busy = s.busy := rfl
@[simp] theorem withQueue_pending (s : State) (q : List HostOp) : (s.withQueue q).pending = s.pending := rfl
@[simp] theorem withQueue_done (s : State) (q : List HostOp) : (s.withQueue q).done = s.done := rfl
@[simp] theorem withQueue_ovr (s : State) (q : List HostOp) : (s.withQueue q).ovr = s.ovr := rfl
@[simp] theorem withQueue_haz (s : State) (q : List HostOp) : (s.withQueue q).haz = s.haz := rfl
@[simp] theorem withQueue_err (s : State) (q : List HostOp) : (s.withQueue q).err = s.err := rfl
@[simp] theorem withQueue_epoch (s : State) (q : List HostOp) : (s.withQueue q).epoch = s.epoch := rfl
@[simp] theorem withQueue_hostQueue (s : State) (q : List HostOp) : (s.withQueue q).hostQueue = q := rfl
@[simp] theorem withQueue_turns (s : State) (q : List HostOp) : (s.withQueue q).turns = s.turns := rfl
@[simp] theorem withQueue_replies (s : State) (q : List HostOp) : (s.withQueue q).replies = s.replies := rfl

@[simp] theorem reply_params (s : State) (v : Word) : (s.reply v).params = s.params := rfl
@[simp] theorem reply_marker (s : State) (v : Word) : (s.reply v).marker = s.marker := rfl
@[simp] theorem reply_mkv (s : State) (v : Word) : (s.reply v).mkv = s.mkv := rfl
@[simp] theorem reply_fMark (s : State) (v : Word) : (s.reply v).fMark = s.fMark := rfl
@[simp] theorem reply_fVer (s : State) (v : Word) : (s.reply v).fVer = s.fVer := rfl
@[simp] theorem reply_fCrc (s : State) (v : Word) : (s.reply v).fCrc = s.fCrc := rfl
@[simp] theorem reply_fLen (s : State) (v : Word) : (s.reply v).fLen = s.fLen := rfl
@[simp] theorem reply_crcRes (s : State) (v : Word) : (s.reply v).crcRes = s.crcRes := rfl
@[simp] theorem reply_bufSel (s : State) (v : Word) : (s.reply v).bufSel = s.bufSel := rfl
@[simp] theorem reply_bufPtr (s : State) (v : Word) : (s.reply v).bufPtr = s.bufPtr := rfl
@[simp] theorem reply_hdr (s : State) (v : Word) : (s.reply v).hdr = s.hdr := rfl
@[simp] theorem reply_data (s : State) (v : Word) : (s.reply v).data = s.data := rfl
@[simp] theorem reply_wire (s : State) (v : Word) : (s.reply v).wire = s.wire := rfl
@[simp] theorem reply_arg0 (s : State) (v : Word) : (s.reply v).arg0 = s.arg0 := rfl
@[simp] theorem reply_arg1 (s : State) (v : Word) : (s.reply v).arg1 = s.arg1 := rfl
@[simp] theorem reply_busy (s : State) (v : Word) : (s.reply v).busy = s.busy := rfl
@[simp] theorem reply_pending (s : State) (v : Word) : (s.reply v).pending = s.pending := rfl
@[simp] theorem reply_done (s : State) (v : Word) : (s.reply v).done = s.done := rfl
@[simp] theorem reply_ovr (s : State) (v : Word) : (s.reply v).ovr = s.ovr := rfl
@[simp] theorem reply_haz (s : State) (v : Word) : (s.reply v).haz = s.haz := rfl
@[simp] theorem reply_err (s : State) (v : Word) : (s.reply v).err = s.err := rfl
@[simp] theorem reply_epoch (s : State) (v : Word) : (s.reply v).epoch = s.epoch := rfl
@[simp] theorem reply_hostQueue (s : State) (v : Word) : (s.reply v).hostQueue = s.hostQueue := rfl
@[simp] theorem reply_turns (s : State) (v : Word) : (s.reply v).turns = s.turns := rfl
@[simp] theorem reply_replies (s : State) (v : Word) : (s.reply v).replies = v :: s.replies := rfl

@[simp] theorem withBuf_params (s : State) (k : BufId) (b : Buffer) : (s.withBuf k b).params = s.params := by cases k <;> rfl
@[simp] theorem withBuf_marker (s : State) (k : BufId) (b : Buffer) : (s.withBuf k b).marker = s.marker := by cases k <;> rfl
@[simp] theorem withBuf_mkv (s : State) (k : BufId) (b : Buffer) : (s.withBuf k b).mkv = s.mkv := by cases k <;> rfl
@[simp] theorem withBuf_fMark (s : State) (k : BufId) (b : Buffer) : (s.withBuf k b).fMark = s.fMark := by cases k <;> rfl
@[simp] theorem withBuf_fVer (s : State) (k : BufId) (b : Buffer) : (s.withBuf k b).fVer = s.fVer := by cases k <;> rfl
@[simp] theorem withBuf_fCrc (s : State) (k : BufId) (b : Buffer) : (s.withBuf k b).fCrc = s.fCrc := by cases k <;> rfl
@[simp] theorem withBuf_fLen (s : State) (k : BufId) (b : Buffer) : (s.withBuf k b).fLen = s.fLen := by cases k <;> rfl
@[simp] theorem withBuf_crcRes (s : State) (k : BufId) (b : Buffer) : (s.withBuf k b).crcRes = s.crcRes := by cases k <;> rfl
@[simp] theorem withBuf_bufSel (s : State) (k : BufId) (b : Buffer) : (s.withBuf k b).bufSel = s.bufSel := by cases k <;> rfl
@[simp] theorem withBuf_bufPtr (s : State) (k : BufId) (b : Buffer) : (s.withBuf k b).bufPtr = s.bufPtr := by cases k <;> rfl
@[simp] theorem withBuf_busy (s : State) (k : BufId) (b : Buffer) : (s.withBuf k b).busy = s.busy := by cases k <;> rfl
@[simp] theorem withBuf_pending (s : State) (k : BufId) (b : Buffer) : (s.withBuf k b).pending = s.pending := by cases k <;> rfl
@[simp] theorem withBuf_done (s : State) (k : BufId) (b : Buffer) : (s.withBuf k b).done = s.done := by cases k <;> rfl
@[simp] theorem withBuf_ovr (s : State) (k : BufId) (b : Buffer) : (s.withBuf k b).ovr = s.ovr := by cases k <;> rfl
@[simp] theorem withBuf_haz (s : State) (k : BufId) (b : Buffer) : (s.withBuf k b).haz = s.haz := by cases k <;> rfl
@[simp] theorem withBuf_err (s : State) (k : BufId) (b : Buffer) : (s.withBuf k b).err = s.err := by cases k <;> rfl
@[simp] theorem withBuf_epoch (s : State) (k : BufId) (b : Buffer) : (s.withBuf k b).epoch = s.epoch := by cases k <;> rfl
@[simp] theorem withBuf_hostQueue (s : State) (k : BufId) (b : Buffer) : (s.withBuf k b).hostQueue = s.hostQueue := by cases k <;> rfl
@[simp] theorem withBuf_turns (s : State) (k : BufId) (b : Buffer) : (s.withBuf k b).turns = s.turns := by cases k <;> rfl
@[simp] theorem withBuf_replies (s : State) (k : BufId) (b : Buffer) : (s.withBuf k b).replies = s.replies := by cases k <;> rfl

@[simp] theorem setBuf_params (s : State) (k : BufId) (x : Bytes) : (s.setBuf k x).params = s.params := by cases k <;> rfl
@[simp] theorem setBuf_marker (s : State) (k : BufId) (x : Bytes) : (s.setBuf k x).marker = s.marker := by cases k <;> rfl
@[simp] theorem setBuf_mkv (s : State) (k : BufId) (x : Bytes) : (s.setBuf k x).mkv = s.mkv := by cases k <;> rfl
@[simp] theorem setBuf_fMark (s : State) (k : BufId) (x : Bytes) : (s.setBuf k x).fMark = s.fMark := by cases k <;> rfl
@[simp] theorem setBuf_fVer (s : State) (k : BufId) (x : Bytes) : (s.setBuf k x).fVer = s.fVer := by cases k <;> rfl
@[simp] theorem setBuf_fCrc (s : State) (k : BufId) (x : Bytes) : (s.setBuf k x).fCrc = s.fCrc := by cases k <;> rfl
@[simp] theorem setBuf_fLen (s : State) (k : BufId) (x : Bytes) : (s.setBuf k x).fLen = s.fLen := by cases k <;> rfl
@[simp] theorem setBuf_crcRes (s : State) (k : BufId) (x : Bytes) : (s.setBuf k x).crcRes = s.crcRes := by cases k <;> rfl
@[simp] theorem setBuf_bufSel (s : State) (k : BufId) (x : Bytes) : (s.setBuf k x).bufSel = s.bufSel := by cases k <;> rfl
@[simp] theorem setBuf_bufPtr (s : State) (k : BufId) (x : Bytes) : (s.setBuf k x).bufPtr = s.bufPtr := by cases k <;> rfl
@[simp] theorem setBuf_busy (s : State) (k : BufId) (x : Bytes) : (s.setBuf k x).busy = s.busy := by cases k <;> rfl
@[simp] theorem setBuf_pending (s : State) (k : BufId) (x : Bytes) : (s.setBuf k x).pending = s.pending := by cases k <;> rfl
@[simp] theorem setBuf_done (s : State) (k : BufId) (x : Bytes) : (s.setBuf k x).done = s.done := by cases k <;> rfl
@[simp] theorem setBuf_ovr (s : State) (k : BufId) (x : Bytes) : (s.setBuf k x).ovr = s.ovr := by cases k <;> rfl
@[simp] theorem setBuf_haz (s : State) (k : BufId) (x : Bytes) : (s.setBuf k x).haz = s.haz := by cases k <;> rfl
@[simp] theorem setBuf_err (s : State) (k : BufId) (x : Bytes) : (s.setBuf k x).err = s.err := by cases k <;> rfl
@[simp] theorem setBuf_epoch (s : State) (k : BufId) (x : Bytes) : (s.setBuf k x).epoch = s.epoch := by cases k <;> rfl
@[simp] theorem setBuf_hostQueue (s : State) (k : BufId) (x : Bytes) : (s.setBuf k x).hostQueue = s.hostQueue := by cases k <;> rfl
@[simp] theorem setBuf_turns (s : State) (k : BufId) (x : Bytes) : (s.setBuf k x).turns = s.turns := by cases k <;> rfl
@[simp] theorem setBuf_replies (s : State) (k : BufId) (x : Bytes) : (s.setBuf k x).replies = s.replies := by cases k <;> rfl

@[simp] theorem writeFrame_params (s : State) (w d : Bytes) : (s.writeFrame w d).params = s.params := rfl
@[simp] theorem writeFrame_marker (s : State) (w d : Bytes) : (s.writeFrame w d).marker = s.marker := rfl
@[simp] theorem writeFrame_mkv (s : State) (w d : Bytes) : (s.writeFrame w d).mkv = s.mkv := rfl
@[simp] theorem writeFrame_fMark (s : State) (w d : Bytes) : (s.writeFrame w d).fMark = frameMark w := rfl
@[simp] theorem writeFrame_fVer (s : State) (w d : Bytes) : (s.writeFrame w d).fVer = frameVersion w := rfl
@[simp] theorem writeFrame_fCrc (s : State) (w d : Bytes) : (s.writeFrame w d).fCrc = frameChecksum w := rfl
@[simp] theorem writeFrame_fLen (s : State) (w d : Bytes) : (s.writeFrame w d).fLen = frameLength w := rfl
@[simp] theorem writeFrame_crcRes (s : State) (w d : Bytes) : (s.writeFrame w d).crcRes = s.crcRes := rfl
@[simp] theorem writeFrame_bufSel (s : State) (w d : Bytes) : (s.writeFrame w d).bufSel = s.bufSel := rfl
@[simp] theorem writeFrame_bufPtr (s : State) (w d : Bytes) : (s.writeFrame w d).bufPtr = s.bufPtr := rfl
@[simp] theorem writeFrame_hdr (s : State) (w d : Bytes) : (s.writeFrame w d).hdr = ⟨(frameHeader w).length, s.hdr.store.overwrite (frameHeader w)⟩ := rfl
@[simp] theorem writeFrame_data (s : State) (w d : Bytes) : (s.writeFrame w d).data = ⟨d.length, s.data.store.overwrite d⟩ := rfl
@[simp] theorem writeFrame_wire (s : State) (w d : Bytes) : (s.writeFrame w d).wire = s.wire := rfl
@[simp] theorem writeFrame_arg0 (s : State) (w d : Bytes) : (s.writeFrame w d).arg0 = s.arg0 := rfl
@[simp] theorem writeFrame_arg1 (s : State) (w d : Bytes) : (s.writeFrame w d).arg1 = s.arg1 := rfl
@[simp] theorem writeFrame_busy (s : State) (w d : Bytes) : (s.writeFrame w d).busy = s.busy := rfl
@[simp] theorem writeFrame_pending (s : State) (w d : Bytes) : (s.writeFrame w d).pending = s.pending := rfl
@[simp] theorem writeFrame_done (s : State) (w d : Bytes) : (s.writeFrame w d).done = s.done := rfl
@[simp] theorem writeFrame_ovr (s : State) (w d : Bytes) : (s.writeFrame w d).ovr = s.ovr := rfl
@[simp] theorem writeFrame_haz (s : State) (w d : Bytes) : (s.writeFrame w d).haz = s.haz := rfl
@[simp] theorem writeFrame_err (s : State) (w d : Bytes) : (s.writeFrame w d).err = s.err := rfl
@[simp] theorem writeFrame_epoch (s : State) (w d : Bytes) : (s.writeFrame w d).epoch = s.epoch := rfl
@[simp] theorem writeFrame_hostQueue (s : State) (w d : Bytes) : (s.writeFrame w d).hostQueue = s.hostQueue := rfl
@[simp] theorem writeFrame_turns (s : State) (w d : Bytes) : (s.writeFrame w d).turns = s.turns := rfl
@[simp] theorem writeFrame_replies (s : State) (w d : Bytes) : (s.writeFrame w d).replies = s.replies := rfl

end Sys2Proof.Machine
end

