-- ==== Sys2Proof/Laws/Operands.lean ====
section
/-! SUPPORT. Laws/Operands.lean: what reading and writing a buffer gives, and that every buffer operation keeps a buffer as
R33 says it is. -/

namespace Sys2Proof.Machine

@[simp] theorem buf_withBuf_same (s : State) (k : BufId) (b : Buffer) : (s.withBuf k b).buf k = b := by
  cases k <;> rfl

theorem buf_withBuf_other (s : State) {k j : BufId} (b : Buffer) (h : k ≠ j) : (s.withBuf k b).buf j = s.buf j := by
  cases k <;> cases j <;> first | rfl | exact absurd rfl h

@[simp] theorem withBuf_withBuf (s : State) (k : BufId) (a b : Buffer) : (s.withBuf k a).withBuf k b = s.withBuf k b := by
  cases k <;> rfl

@[simp] theorem cap_withBuf (s : State) (k j : BufId) (b : Buffer) : (s.withBuf k b).cap j = s.cap j := by
  cases k <;> cases j <;> rfl

@[simp] theorem cap_setBuf (s : State) (k j : BufId) (x : Bytes) : (s.setBuf k x).cap j = s.cap j := by
  simp [State.setBuf]

@[simp] theorem buf_finish (s : State) (c : Status) (k : BufId) : (s.finish c).buf k = s.buf k := by cases k <;> rfl
@[simp] theorem cap_finish (s : State) (c : Status) (k : BufId) : (s.finish c).cap k = s.cap k := by cases k <;> rfl
@[simp] theorem storeByte_finish (s : State) (c : Status) (k : BufId) : (s.finish c).storeByte k = s.storeByte k := by
  cases k <;> rfl
@[simp] theorem content_finish (s : State) (c : Status) (k : BufId) : (s.finish c).content k = s.content k := by
  cases k <;> rfl

@[simp] theorem length_content (s : State) (k : BufId) : (s.content k).length = (s.buf k).len := by
  simp [State.content]

/-- The content of a buffer depends on its own LEN and storage and on the draw only. -/
theorem content_congr {s t : State} {k : BufId} (h : s.buf k = t.buf k) (he : s.epoch = t.epoch) :
    s.content k = t.content k := by
  unfold State.content State.storeByte; rw [h, he]

theorem buf_setBuf_same (s : State) (k : BufId) (x : Bytes) :
    (s.setBuf k x).buf k = ⟨x.length, (s.buf k).store.overwrite x⟩ := by
  simp [State.setBuf]

theorem buf_setBuf_other (s : State) {k j : BufId} (x : Bytes) (h : k ≠ j) : (s.setBuf k x).buf j = s.buf j := by
  simp [State.setBuf, buf_withBuf_other _ _ h]

theorem storeByte_setBuf (s : State) (k : BufId) (x : Bytes) (i : Nat) :
    (s.setBuf k x).storeByte k i = if h : i < x.length then x[i] else s.storeByte k i := by
  simp only [State.storeByte, buf_setBuf_same, Memory.read_overwrite, setBuf_epoch]
  by_cases h : i < x.length
  · simp only [dif_pos h]
  · simp only [dif_neg h]

theorem storeByte_setBuf_other (s : State) {k j : BufId} (x : Bytes) (h : k ≠ j) (i : Nat) :
    (s.setBuf k x).storeByte j i = s.storeByte j i := by
  simp [State.storeByte, buf_setBuf_other s x h]

/-- `setbuf(k, x)` makes `x` the content of buffer k (R9). -/
@[simp] theorem content_setBuf (s : State) (k : BufId) (x : Bytes) : (s.setBuf k x).content k = x := by
  refine List.ext_getElem (by simp [buf_setBuf_same]) fun i h1 h2 => ?_
  simp [State.content, storeByte_setBuf, h2]

theorem content_setBuf_other (s : State) {k j : BufId} (x : Bytes) (h : k ≠ j) :
    (s.setBuf k x).content j = s.content j :=
  content_congr (buf_setBuf_other s x h) (by simp)

theorem Buffer.ok_setBuf {s : State} {k : BufId} {x : Bytes} (h : ∀ j, (s.buf j).ok (s.cap j)) (hx : x.length ≤ s.cap k)
    (j : BufId) : ((s.setBuf k x).buf j).ok ((s.setBuf k x).cap j) := by
  rw [cap_setBuf]
  by_cases hj : k = j
  · subst hj
    rw [buf_setBuf_same]
    refine ⟨hx, Memory.wf_overwrite x (h k).2.1, fun c hc => ?_⟩
    rcases Memory.mem_overwrite hc with hc | hc
    · show c.1 < s.cap k; omega
    · exact (h k).2.2 c hc
  · rw [buf_setBuf_other s x hj]; exact h j

/-- A state whose buffers and capacities are as before keeps them as R33 says. -/
theorem Buffer.ok_congr {s t : State} (h : ∀ k, (s.buf k).ok (s.cap k)) (hb : ∀ k, t.buf k = s.buf k)
    (hp : t.params = s.params) (k : BufId) : (t.buf k).ok (t.cap k) := by
  have hc : t.cap k = s.cap k := by cases k <;> simp [State.cap, hp]
  rw [hb, hc]; exact h k

theorem buf_afterReset (p : Config.Params) (e : Nat) (k : BufId) : (State.afterReset p e).buf k = Buffer.reset := by
  cases k <;> rfl

theorem Buffer.ok_reset (cap : Nat) : Buffer.reset.ok cap := by simp [Buffer.ok, Buffer.reset, Memory.wf]

/-- The writing side of the buffer port keeps every buffer as R33 says (R31, R56). -/
theorem Buffer.ok_bufDataWrite {s : State} (v : Word) (h : ∀ k, (s.buf k).ok (s.cap k)) (k : BufId) :
    ((bufDataWrite v s).buf k).ok ((bufDataWrite v s).cap k) := by
  unfold bufDataWrite
  split
  · rename_i j hj
    split
    · rename_i hlt
      refine Buffer.ok_congr (s := s.withBuf j _) (fun i => ?_) (by intro i; cases i <;> rfl) rfl k
      rw [cap_withBuf]
      by_cases hji : j = i
      · subst hji
        rw [buf_withBuf_same]
        refine ⟨(h j).1, Memory.wf_write _ _ (h j).2.1, fun c hc => ?_⟩
        rcases Memory.mem_write hc with rfl | hc
        · exact hlt
        · exact (h j).2.2 c hc
      · rw [buf_withBuf_other s _ hji]; exact h i
    · exact Buffer.ok_congr h (by intro i; cases i <;> rfl) rfl k
  · exact Buffer.ok_congr h (by intro i; cases i <;> rfl) rfl k

theorem Buffer.ok_bufLenWrite {s : State} (v : Word) (h : ∀ k, (s.buf k).ok (s.cap k)) (k : BufId) :
    ((bufLenWrite v s).buf k).ok ((bufLenWrite v s).cap k) := by
  unfold bufLenWrite
  split
  · rename_i j hj
    rw [cap_withBuf]
    by_cases hji : j = k
    · subst hji
      rw [buf_withBuf_same]
      exact ⟨Nat.min_le_right _ _, (h j).2⟩
    · rw [buf_withBuf_other s _ hji]; exact h k
  · exact h k

end Sys2Proof.Machine
end

