-- ==== Sys2Proof/Laws/Ops.lean ====
section
/-! SUPPORT. Laws/Ops.lean: everything the shared operations can do, and from them everything a command, a host move and a
step can do. Proofs cite these instead of unfolding the operations. -/

namespace Sys2Proof.Machine

theorem raise_eq (c : Status) (s : State) : raise c s = .next (s.finish c) := rfl
theorem complete_eq (s : State) : complete s = .next (s.finish .ok) := rfl

/-- `storeResult` either refuses the result for its length or stores it and completes. -/
theorem storeResult_cases (k : BufId) (o : Bytes) (s : State) :
    (s.cap k < o.length ∧ storeResult k o s = .next (s.finish .capacityError)) ∨
    (o.length ≤ s.cap k ∧ storeResult k o s = .next ((s.setBuf k o).finish .ok)) := by
  unfold storeResult
  split
  · exact .inl ⟨by assumption, rfl⟩
  · exact .inr ⟨by omega, rfl⟩

theorem storeResult_fits {k : BufId} {o : Bytes} {s : State} (h : o.length ≤ s.cap k) :
    storeResult k o s = .next ((s.setBuf k o).finish .ok) := by
  rw [storeResult, if_neg (by omega)]; rfl

/-- The outputs a command can have committed when it ends with code 0: the state before STATUS is written. -/
inductive Commits (s : State) : Instr → State → Prop
  | nop : Commits s .nop s
  | setmk (v : Byte) (hv : s.content .arg0 = [v]) (lo : 32 ≤ v.toNat) (hi : v.toNat ≤ 126) :
      Commits s .setmk (s.setMarker v)
  | esc (d k : BufId) (h : (escape (s.content k) (s.content .arg0) (s.content .arg1)).length ≤ s.cap d) :
      Commits s (.esc d k) (s.setBuf d (escape (s.content k) (s.content .arg0) (s.content .arg1)))
  | unesc (d k : BufId) (h : (unescape (s.content k) (s.content .arg0) (s.content .arg1)).length ≤ s.cap d) :
      Commits s (.unesc d k) (s.setBuf d (unescape (s.content k) (s.content .arg0) (s.content .arg1)))
  | crc (k : BufId) : Commits s (.crc k) (s.setCrcRes (crc32 (s.content k)))
  | enc (hm : s.mkv = true) (hh : (s.content .hdr).length = 10) (hl : (s.content .data).length ≤ 0xFFFFFFFF)
      (hc : (encodeFrame s.marker (s.content .hdr) s.fVer (s.content .data)).length ≤ s.cap .wire) :
      Commits s .enc (s.setBuf .wire (encodeFrame s.marker (s.content .hdr) s.fVer (s.content .data)))
  | dec (hm : s.mkv = true) (hn : 35 ≤ (s.content .wire).length)
      (hc : (frameData (s.content .wire) s.marker).length ≤ s.cap .data) :
      Commits s .dec (s.writeFrame (s.content .wire) (frameData (s.content .wire) s.marker))
  | val : Commits s .val s

/-- An answer a command can give: one of its codes with nothing else changed, or its outputs committed with code 0. -/
def CanAnswer (i : Instr) (s : State) (a : Answer) : Prop :=
  (∃ c, c ≠ .ok ∧ c ∈ codesOf i ∧ a = .next (s.finish c)) ∨ (∃ u, Commits s i u ∧ a = .next (u.finish .ok))

theorem CanAnswer.raise {i : Instr} {s : State} {c : Status} (h : c ≠ .ok) (hc : c ∈ codesOf i) :
    CanAnswer i s (raise c s) := .inl ⟨c, h, hc, rfl⟩

theorem CanAnswer.complete {i : Instr} {s u : State} (h : Commits s i u) : CanAnswer i s (complete u) := .inr ⟨u, h, rfl⟩

theorem CanAnswer.store {i : Instr} {s : State} {k : BufId} {o : Bytes} (hc : .capacityError ∈ codesOf i)
    (h : o.length ≤ s.cap k → Commits s i (s.setBuf k o)) : CanAnswer i s (storeResult k o s) := by
  rcases storeResult_cases k o s with ⟨_, e⟩ | ⟨hl, e⟩
  · exact .inl ⟨_, by decide, hc, e⟩
  · exact .inr ⟨_, h hl, e⟩

/-- Everything a command can do: it raises one of its codes and changes nothing else, or commits its outputs and ends with
code 0. -/
theorem exec_cases (i : Instr) (s : State) : CanAnswer i s (exec i s) := by
  cases i with
  | nop => exact .complete .nop
  | setmk =>
    simp only [exec, execSetmk]
    split
    · rename_i v hv
      split
      · exact .raise (by decide) (by decide)
      · simp only [Config.markMin, Config.markMax] at *
        exact .complete (.setmk v hv (by omega) (by omega))
    · exact .raise (by decide) (by decide)
  | esc d k => exact .store (by simp [codesOf]) (.esc d k)
  | unesc d k => exact .store (by simp [codesOf]) (.unesc d k)
  | crc k => exact .complete (.crc k)
  | enc =>
    simp only [exec, execEnc]
    split
    · exact .raise (by decide) (by decide)
    split
    · exact .raise (by decide) (by decide)
    split
    · exact .raise (by decide) (by decide)
    simp only [Config.headerLen, Config.lengthBound] at *
    exact .store (by decide) (.enc (by simp_all) (by simp_all) (by omega))
  | dec =>
    simp only [exec, execDec]
    split
    · exact .raise (by decide) (by decide)
    split
    · exact .raise (by decide) (by decide)
    split
    · exact .raise (by decide) (by decide)
    simp only [Config.fixedLen] at *
    exact .complete (.dec (by simp_all) (by omega) (by omega))
  | val =>
    simp only [exec, execVal]
    repeat' (split; exact .raise (by decide) (by decide))
    exact .complete .val

/-- Everything a host write outside lockout can be, slot by slot. -/
theorem writeReg_idle {s : State} (h : s.busy = false) (r : Reg) (v : Word) : writeReg r v s = idleWrite r v s := by
  simp [writeReg, h]

theorem writeReg_locked {s : State} (h : s.busy = true) (r : Reg) (v : Word) : writeReg r v s = lockedWrite r v s := by
  simp [writeReg, h]

/-- A read changes nothing but BUF_PTR, and that only through BUF_DATA outside lockout (R54, R57). -/
theorem readReg_state (r : Reg) (s : State) :
    (readReg r s).2 = s ∨ (s.busy = false ∧ r = .bufData ∧ (readReg r s).2 = s.advancePtr) := by
  unfold readReg
  split
  · left; cases r <;> rfl
  · rename_i hb
    cases r
    case bufData =>
      refine .inr ⟨by simpa using hb, rfl, ?_⟩
      simp only [idleRead, bufDataRead]; split <;> rfl
    all_goals exact .inl rfl

/-- The engine answers a next state on every word. -/
theorem runPending_next (s : State) : ∃ t, runPending s = .next t := by
  unfold runPending
  split
  · rename_i i _
    rcases exec_cases i s with ⟨c, _, _, h⟩ | ⟨u, _, h⟩
    · exact ⟨_, h⟩
    · exact ⟨_, h⟩
  · exact ⟨_, rfl⟩

/-- Everything a completion can do (R88): a code and nothing else, or the pending command's outputs and code 0. -/
theorem runPending_cases (s : State) :
    (∃ c, c ≠ .ok ∧ runPending s = .next (s.finish c)) ∨
    (∃ i u, decode s.pending = .ok i ∧ Commits s i u ∧ runPending s = .next (u.finish .ok)) := by
  unfold runPending
  split
  · rename_i i hi
    rcases exec_cases i s with ⟨c, hc, _, h⟩ | ⟨u, hu, h⟩
    · exact .inl ⟨c, hc, h⟩
    · exact .inr ⟨i, u, hi, hu, h⟩
  · exact .inl ⟨.illegalCommandError, by decide, rfl⟩

/-! ## Single commands -/

/-- A result that fits is stored: it is DST's content, the bytes after it and every other buffer stay (R9). -/
theorem storeResult_stores {k : BufId} {o : Bytes} {s t : State} (hl : o.length ≤ s.cap k)
    (h : storeResult k o s = .next t) :
    t.content k = o ∧ (t.buf k).len = o.length ∧ (∀ i, o.length ≤ i → t.storeByte k i = s.storeByte k i) ∧
    (∀ j, j ≠ k → t.buf j = s.buf j) := by
  rw [storeResult_fits hl] at h; cases h
  refine ⟨by simp, by simp [buf_setBuf_same], fun i hi => ?_, fun j hj => ?_⟩
  · rw [storeByte_finish, storeByte_setBuf, dif_neg (by omega)]
  · rw [buf_finish, buf_setBuf_other _ _ (Ne.symm hj)]

theorem execEnc_stores {s : State} (hm : s.mkv = true) (hh : (s.content .hdr).length = 10)
    (hl : (s.content .data).length ≤ 0xFFFFFFFF) :
    execEnc s = storeResult .wire (encodeFrame s.marker (s.content .hdr) s.fVer (s.content .data)) s := by
  simp only [execEnc, hm]
  rw [if_neg (by simp), if_neg (by simp only [Config.headerLen]; omega), if_neg (by simp only [Config.lengthBound]; omega)]

theorem execDec_writes {s : State} (hm : s.mkv = true) (hn : 35 ≤ (s.content .wire).length)
    (hc : (frameData (s.content .wire) s.marker).length ≤ s.params.dataCap) :
    execDec s = .next ((s.writeFrame (s.content .wire) (frameData (s.content .wire) s.marker)).finish .ok) := by
  simp only [execDec, hm]
  rw [if_neg (by simp), if_neg (by simp only [Config.fixedLen]; omega), if_neg (by simp only [State.cap]; omega)]; rfl

@[simp] theorem content_writeFrame_data (s : State) (w d : Bytes) : (s.writeFrame w d).content .data = d := by
  rw [content_congr (s := s.writeFrame w d) (t := (s.setBuf .hdr (frameHeader w)).setBuf .data d) rfl rfl, content_setBuf]

@[simp] theorem content_writeFrame_hdr (s : State) (w d : Bytes) : (s.writeFrame w d).content .hdr = frameHeader w := by
  rw [content_congr (s := s.writeFrame w d) (t := (s.setBuf .hdr (frameHeader w)).setBuf .data d) rfl rfl,
    content_setBuf_other _ _ (by decide), content_setBuf]

theorem storeByte_writeFrame (s : State) (w d : Bytes) (k : BufId) (i : Nat) :
    (s.writeFrame w d).storeByte k i = ((s.setBuf .hdr (frameHeader w)).setBuf .data d).storeByte k i := by
  cases k <;> rfl

/-! ## Host writes -/

/-- The state one host write to a register can leave (R52, R57). -/
inductive WriteEffect (s : State) : State → Prop
  | same : WriteEffect s s
  | reset : WriteEffect s s.resetBlock
  | accept (w : Word) (h : s.busy = false) : WriteEffect s (s.accept w)
  | ovr : WriteEffect s s.setOvr
  | haz : WriteEffect s s.setHaz
  | status (v : Word) : WriteEffect s (statusWrite v s)
  | fMark (v : Byte) (h : s.busy = false) : WriteEffect s { s with fMark := v }
  | fVer (v : Byte) (h : s.busy = false) : WriteEffect s { s with fVer := v }
  | fCrc (v : Word) (h : s.busy = false) : WriteEffect s { s with fCrc := v }
  | fLen (v : BitVec 64) (h : s.busy = false) : WriteEffect s { s with fLen := v }
  | bufSel (v : BitVec 3) (h : s.busy = false) : WriteEffect s { s with bufSel := v }
  | bufPtr (v : Word) (h : s.busy = false) : WriteEffect s { s with bufPtr := v }
  | bufLen (v : Word) (h : s.busy = false) : WriteEffect s (bufLenWrite v s)
  | bufData (v : Word) (h : s.busy = false) : WriteEffect s (bufDataWrite v s)

/-- Everything a host write can do. -/
theorem writeReg_effect (r : Reg) (v : Word) (s : State) : WriteEffect s (writeReg r v s) := by
  cases hb : s.busy
  · rw [writeReg_idle hb]
    cases r <;> simp only [idleWrite, ctrlWrite, cmdWrite]
    case ctrl =>
      split
      · exact .reset
      · exact .same
    case cmd => rw [hb]; exact .accept _ hb
    case status => exact .status _
    case fMark => exact .fMark _ hb
    case fVer => exact .fVer _ hb
    case fCrc => exact .fCrc _ hb
    case fLenLo => exact .fLen _ hb
    case fLenHi => exact .fLen _ hb
    case bufSel => exact .bufSel _ hb
    case bufPtr => exact .bufPtr _ hb
    case bufLen => exact .bufLen _ hb
    case bufData => exact .bufData _ hb
    all_goals exact .same
  · rw [writeReg_locked hb]
    cases r <;> simp only [lockedWrite, ctrlWrite, cmdWrite]
    case ctrl =>
      split
      · exact .reset
      · exact .same
    case cmd => rw [hb]; exact .ovr
    case status => exact .status _
    all_goals first | exact .haz | exact .same

/-- A write that is no reset leaves MARKER, MKV, CRC_RES, the parameters and the draw's index alone (R24, R29). -/
theorem writeReg_frame {r : Reg} {v : Word} {s : State} (h : ¬ (r = .ctrl ∧ v.getLsbD 0 = true)) :
    (writeReg r v s).marker = s.marker ∧ (writeReg r v s).mkv = s.mkv ∧ (writeReg r v s).crcRes = s.crcRes ∧
    (writeReg r v s).params = s.params ∧ (writeReg r v s).epoch = s.epoch := by
  cases hb : s.busy
  · rw [writeReg_idle hb]
    cases r <;> simp only [idleWrite, cmdWrite, hb]
    case ctrl => simp only [true_and, Bool.not_eq_true] at h; rw [ctrlWrite, h]; simp
    case bufLen => unfold bufLenWrite; split <;> simp
    case bufData => unfold bufDataWrite; split <;> (try split) <;> simp
    all_goals simp
  · rw [writeReg_locked hb]
    cases r <;> simp only [lockedWrite, cmdWrite, hb]
    case ctrl => simp only [true_and, Bool.not_eq_true] at h; rw [ctrlWrite, h]; simp
    all_goals simp

end Sys2Proof.Machine
end

