-- ==== Sys2Proof/Laws/PerInstr.lean ====
section
/-! SUPPORT. Laws/PerInstr.lean: the family Encoding. Of every command: its word matches its own row of R83, and its fields
meet none of R84's conditions. -/

namespace Sys2Proof.Laws.Encoding

/-- The command's word is covered by its row of R83, its row stands in the table, and its fields are well formed. -/
def Statement (i : Instr) : Prop :=
  i.row.covers (encode i) = true ∧ i.row ∈ opcodeRows ∧ (fieldsOf (encode i)).wellFormed = true

theorem nop : Statement .nop := by unfold Statement; decide
theorem setmk : Statement .setmk := by unfold Statement; decide
theorem esc (d s : BufId) : Statement (.esc d s) := by unfold Statement; cases d <;> cases s <;> decide
theorem unesc (d s : BufId) : Statement (.unesc d s) := by unfold Statement; cases d <;> cases s <;> decide
theorem crc (s : BufId) : Statement (.crc s) := by unfold Statement; cases s <;> decide
theorem enc : Statement .enc := by unfold Statement; decide
theorem dec : Statement .dec := by unfold Statement; decide
theorem val : Statement .val := by unfold Statement; decide

end Sys2Proof.Laws.Encoding
end

