-- ==== Sys2Proof/Laws/Step.lean ====
section
/-! SUPPORT. Laws/Step.lean: the register window by register name, single steps and runs of steps. -/

namespace Sys2Proof.Machine

/-- Every register answers at its own address (R50, R51). -/
@[simp] theorem Reg.at_regAddr (base : Nat) (r : Reg) : Reg.at base (regAddr base r) = r := by
  unfold Reg.at regAddr
  cases r <;> simp [Reg.offset, Reg.ofSlot]

theorem selected_of_num {s : State} {k : BufId} (h : s.bufSel.toNat = k.num) : s.selected = some k := by
  rw [State.selected, h, BufId.ofNum_num]

theorem selected_of_reserved {s : State} (h : 5 ≤ s.bufSel.toNat) : s.selected = none := by
  rw [State.selected, BufId.ofNum_eq_none_iff]; exact h

theorem cap_lt {s : State} (h : s.params.legal = true) (k : BufId) : s.cap k < 2 ^ 32 := by
  simp only [Config.Params.legal, decide_eq_true_eq] at h
  cases k <;> simp only [State.cap, Config.hdrCap, Config.argCap] <;> omega

@[simp] theorem statusWord_bit0 (s : State) : s.statusWord.getLsbD 0 = s.busy := by
  simp only [State.statusWord, bit, BitVec.getLsbD_append]; cases s.busy <;> simp

theorem readReg_status (s : State) : readReg .status s = (s.statusWord, s) := by
  unfold readReg; split <;> rfl

theorem operands_setHaz (s : State) : s.setHaz.operands = s.operands := rfl
theorem operands_setOvr (s : State) : s.setOvr.operands = s.operands := rfl
theorem operands_statusWrite (v : Word) (s : State) : (statusWrite v s).operands = s.operands := rfl
theorem operands_takeTurn (s : State) : s.takeTurn.operands = s.operands := rfl
theorem operands_withQueue (s : State) (q : List HostOp) : (s.withQueue q).operands = s.operands := rfl
theorem operands_reply (s : State) (v : Word) : (s.reply v).operands = s.operands := rfl

theorem takeTurn_of_nil {s : State} (h : s.turns = []) : s.takeTurn = s := by
  obtain ⟨_⟩ := s; simp only at h; subst h; rfl

theorem step_host {s : State} (h : s.nextTurn = .host) : step s = .next (hostMove s.takeTurn) := by simp [step, h]
theorem step_reset {s : State} (h : s.nextTurn = .reset) : step s = .next s.takeTurn.resetBlock := by simp [step, h]
theorem step_engine {s : State} (h : s.nextTurn = .engine) : step s = engineMove s.takeTurn := by simp [step, h]

/-- With nothing in flight and no turns given, a step is the host's next operation. -/
theorem step_idle {s : State} {op : HostOp} {rest : List HostOp} (hb : s.busy = false) (ht : s.turns = [])
    (hq : s.hostQueue = op :: rest) : step s = .next (hostDo op (s.withQueue rest)) := by
  rw [step_host (by simp [State.nextTurn, ht, hb]), takeTurn_of_nil ht, hostMove, hq]

/-- With a command in flight and no turns given, a step is its completion. -/
theorem step_busy {s : State} (hb : s.busy = true) (ht : s.turns = []) : step s = runPending s := by
  rw [step_engine (by simp [State.nextTurn, ht, hb]), takeTurn_of_nil ht, engineMove, if_pos hb]

theorem core_run_zero (s : State) : Host.Core.run core 0 s = .next s := rfl

theorem core_run_succ {s t : State} (n : Nat) (h : step s = .next t) :
    Host.Core.run core (n + 1) s = Host.Core.run core n t := by
  have e : core.step s = .next t := h
  simp [Host.Core.run, e]

theorem core_run_add {s t : State} (m n : Nat) (h : Host.Core.run core m s = .next t) :
    Host.Core.run core (m + n) s = Host.Core.run core n t := by
  induction m generalizing s with
  | zero => cases h; simp
  | succ m ih =>
    rw [show m + 1 + n = (m + n) + 1 by omega]
    cases hs : step s with
    | next s' => rw [core_run_succ _ hs] at h ⊢; exact ih h
    | fault r => cases r
    | refused r =>
      have e : core.step s = .refused r := hs
      simp [Host.Core.run, e] at h

theorem core_run_one {s t : State} (h : step s = .next t) : Host.Core.run core 1 s = .next t := by
  rw [core_run_succ 0 h]; rfl

/-- A command's outputs leave the host's side, the parameters and BUSY alone. -/
theorem Commits.frame {s u : State} {i : Instr} (h : Commits s i u) :
    u.params = s.params ∧ u.epoch = s.epoch ∧ u.busy = s.busy ∧ u.pending = s.pending ∧ u.ovr = s.ovr ∧ u.haz = s.haz ∧
    u.bufSel = s.bufSel ∧ u.bufPtr = s.bufPtr ∧ u.hostQueue = s.hostQueue ∧ u.turns = s.turns ∧ u.replies = s.replies := by
  cases h <;> simp

/-- A completion ends the flight and leaves the host's side and the parameters alone. -/
theorem runPending_ends (s : State) : ∃ t, runPending s = .next t ∧ t.busy = false ∧ t.done = true ∧
    t.params = s.params ∧ t.epoch = s.epoch ∧ t.hostQueue = s.hostQueue ∧ t.turns = s.turns ∧ t.replies = s.replies := by
  rcases runPending_cases s with ⟨c, _, h⟩ | ⟨i, u, _, hu, h⟩
  · exact ⟨_, h, by simp⟩
  · have := hu.frame
    exact ⟨_, h, by simp [this]⟩

/-- Everything a step can do: a host move, nothing (an engine with no command), a completion with a code and nothing else, a
completion that commits a command's outputs, or a reset. -/
theorem step_cases {s t : State} (h : step s = .next t) :
    (s.nextTurn = .host ∧ t = hostMove s.takeTurn) ∨ (s.nextTurn = .engine ∧ s.busy = false ∧ t = s.takeTurn) ∨
    (s.nextTurn = .engine ∧ s.busy = true ∧ ∃ c, c ≠ .ok ∧ t = s.takeTurn.finish c) ∨
    (∃ i u, s.completesNext i ∧ Commits s.takeTurn i u ∧ t = u.finish .ok) ∨
    (s.nextTurn = .reset ∧ t = s.takeTurn.resetBlock) := by
  cases ht : s.nextTurn with
  | host => rw [step_host ht] at h; cases h; exact .inl ⟨rfl, rfl⟩
  | reset => rw [step_reset ht] at h; cases h; simp
  | engine =>
    rw [step_engine ht, engineMove] at h
    split at h
    · rename_i hb
      rcases runPending_cases s.takeTurn with ⟨c, hc, e⟩ | ⟨i, u, hi, hu, e⟩
      · rw [e] at h; cases h; exact .inr (.inr (.inl ⟨rfl, by simpa using hb, c, hc, rfl⟩))
      · rw [e] at h; cases h
        exact .inr (.inr (.inr (.inl ⟨i, u, ⟨ht, by simpa using hb, by simpa using hi⟩, hu, rfl⟩)))
    · rename_i hb; cases h; exact .inr (.inl ⟨rfl, by simpa using hb, rfl⟩)

/-- Everything a host move can do: nothing, one read whose reply it keeps, a poll that stays in the queue, a count, or one
write. -/
theorem hostMove_cases (s : State) :
    (s.hostQueue = [] ∧ hostMove s = s) ∨
    (∃ a rest, s.hostQueue = .read a :: rest ∧ hostMove s = hostRead a (s.withQueue rest)) ∨
    (∃ a rest, s.hostQueue = .poll a :: rest ∧ hostMove s = hostPoll a (s.withQueue rest)) ∨
    (∃ a rest, s.hostQueue = .readCount a :: rest ∧ hostMove s = hostReadCount a (s.withQueue rest)) ∨
    (∃ a v rest, s.hostQueue = .write a v :: rest ∧ hostMove s = hostWrite a v (s.withQueue rest)) := by
  unfold hostMove
  split
  · rename_i h; exact .inl ⟨h, rfl⟩
  · rename_i op rest h
    cases op <;> simp [hostDo, h]

/-- A completion on a legal word is that command's meaning. -/
theorem runPending_of_decode {s : State} {i : Instr} (h : decode s.pending = .ok i) : runPending s = exec i s := by
  unfold runPending; rw [h]

theorem core_run_cons {s t u : State} (n : Nat) (h : step s = .next t) (hr : Host.Core.run core n t = .next u) :
    Host.Core.run core (n + 1) s = .next u := (core_run_succ n h).trans hr

/-- The host's next operation is `WR r, v`, with nothing in flight and no turns given. -/
theorem step_wr {s : State} {r : Reg} {v : Word} {rest : List HostOp} (hb : s.busy = false) (ht : s.turns = [])
    (hq : s.hostQueue = wr s.params.base r v :: rest) : step s = .next (idleWrite r v (s.withQueue rest)) := by
  rw [step_idle hb ht hq]; simp only [hostDo, wr, hostWrite]
  rw [show (s.withQueue rest).params.base = s.params.base from rfl, Reg.at_regAddr, writeReg_idle (by simpa using hb)]

/-- The host's next operation is `RD r`, with nothing in flight and no turns given. -/
theorem step_rd {s : State} {r : Reg} {rest : List HostOp} (hb : s.busy = false) (ht : s.turns = [])
    (hq : s.hostQueue = rd s.params.base r :: rest) :
    step s = .next ((idleRead r (s.withQueue rest)).2.reply (idleRead r (s.withQueue rest)).1) := by
  rw [step_idle hb ht hq]; simp only [hostDo, rd, hostRead]
  rw [show (s.withQueue rest).params.base = s.params.base from rfl, Reg.at_regAddr]
  simp only [readReg, show (s.withQueue rest).busy = false from hb]; rfl

end Sys2Proof.Machine
end

