-- ==== Sys2Proof/Laws/Transform.lean ====
section
/-! SUPPORT. Laws/Transform.lean: the scan of R110 as equations without the skip counter, which the laws of the transform
are proved from. -/

namespace Sys2Proof.Machine

theorem escapeScan_nil (S R : Bytes) (n : Nat) : escapeScan S R n [] = [] := by cases n <;> rfl

/-- Skipping is dropping. -/
theorem escapeScan_skip (S R : Bytes) (n : Nat) (d : Bytes) : escapeScan S R n d = escapeScan S R 0 (d.drop n) := by
  induction n generalizing d with
  | zero => rfl
  | succ n ih =>
    cases d with
    | nil => rw [escapeScan_nil, List.drop_nil, escapeScan_nil]
    | cons b d => rw [escapeScan, ih]; rfl

theorem escape_nil_left (d R : Bytes) : escape d [] R = d := by simp [escape]
theorem escape_nil_right (d S : Bytes) : escape d S [] = d := by simp [escape]
theorem escape_nil (S R : Bytes) : escape [] S R = [] := by
  unfold escape; split
  · rfl
  · exact escapeScan_nil S R 0

theorem escape_eq_scan {S R : Bytes} (hS : S ≠ []) (hR : R ≠ []) (d : Bytes) : escape d S R = escapeScan S R 0 d := by
  simp [escape, hS, hR]

/-- At a match the replacement is emitted and the scan goes on past the match (R110). -/
theorem escape_match {S R : Bytes} (hS : S ≠ []) (hR : R ≠ []) (d : Bytes) :
    escape (S ++ d) S R = R ++ escape d S R := by
  rw [escape_eq_scan hS hR, escape_eq_scan hS hR]
  obtain ⟨b, S', rfl⟩ := List.exists_cons_of_ne_nil hS
  have hp : (b :: S').isPrefixOf (b :: (S' ++ d)) = true := by
    rw [List.isPrefixOf_iff_prefix]; exact ⟨d, rfl⟩
  rw [List.cons_append, escapeScan, if_pos hp, escapeScan_skip]
  simp

/-- Where `S` does not stand next, the byte itself is emitted and the scan goes on by one (R110). -/
theorem escape_step {S R : Bytes} (hS : S ≠ []) (hR : R ≠ []) {b : Byte} {d : Bytes} (h : ¬ S <+: b :: d) :
    escape (b :: d) S R = b :: escape d S R := by
  rw [escape_eq_scan hS hR, escape_eq_scan hS hR, escapeScan, if_neg (by rwa [List.isPrefixOf_iff_prefix])]

theorem matchCount_nil (S : Bytes) (n : Nat) : matchCount S n [] = 0 := by cases n <;> rfl

theorem matchCount_skip (S : Bytes) (n : Nat) (d : Bytes) : matchCount S n d = matchCount S 0 (d.drop n) := by
  induction n generalizing d with
  | zero => rfl
  | succ n ih =>
    cases d with
    | nil => rw [matchCount_nil, List.drop_nil, matchCount_nil]
    | cons b d => rw [matchCount, ih]; rfl

theorem matchCount_match {S : Bytes} (hS : S ≠ []) (d : Bytes) : matchCount S 0 (S ++ d) = 1 + matchCount S 0 d := by
  obtain ⟨b, S', rfl⟩ := List.exists_cons_of_ne_nil hS
  have hp : (b :: S').isPrefixOf (b :: (S' ++ d)) = true := by
    rw [List.isPrefixOf_iff_prefix]; exact ⟨d, rfl⟩
  rw [List.cons_append, matchCount, if_pos hp, matchCount_skip]
  simp

theorem matchCount_step {S : Bytes} {b : Byte} {d : Bytes} (h : ¬ S <+: b :: d) :
    matchCount S 0 (b :: d) = matchCount S 0 d := by
  rw [matchCount, if_neg (by rwa [List.isPrefixOf_iff_prefix])]

/-- Induction along the scan: a data sequence is empty, starts with a match, or starts with a byte that is no match. -/
theorem scan_induction {S : Bytes} (hS : S ≠ []) {P : Bytes → Prop} (nil : P [])
    (hit : ∀ d, P d → P (S ++ d)) (miss : ∀ b d, ¬ S <+: b :: d → P d → P (b :: d)) (d : Bytes) : P d := by
  induction hn : d.length using Nat.strong_induction_on generalizing d with
  | _ n ih =>
    by_cases h : S <+: d
    · obtain ⟨r, rfl⟩ := h
      have : 0 < S.length := List.length_pos_iff.2 hS
      exact hit r (ih r.length (by simp at hn; omega) r rfl)
    · cases d with
      | nil => exact nil
      | cons b d => exact miss b d h (ih d.length (by simp at hn; omega) d rfl)

end Sys2Proof.Machine
end

