-- ==== Sys2Proof/Tests/Slice0.lean ====
section
/-! SUPPORT. Tests/Slice0.lean: ill-formed words refused, words written out from 30_encoding.md, one-step vectors of
95_test_vectors.md, and for every statement with hypotheses a concrete case that meets them. -/

namespace Sys2Proof.Tests

open Sys2Proof.Machine

/-! ## States and answers -/

/-- A buffer holding `x`. -/
def holding (x : Bytes) : Buffer := ⟨x.length, cellsFrom 0 x⟩

def tilde : Byte := 0x7E#8
/-- "abcdefghij" -/
def header : Bytes := [0x61#8, 0x62#8, 0x63#8, 0x64#8, 0x65#8, 0x66#8, 0x67#8, 0x68#8, 0x69#8, 0x6A#8]
/-- "hello" -/
def hello : Bytes := [0x68#8, 0x65#8, 0x6C#8, 0x6C#8, 0x6F#8]
/-- the 40 bytes of V-ENC-1 -/
def helloFrame : Bytes :=
  [tilde] ++ header ++ [0x01#8, 0x36#8, 0x10#8, 0xA6#8, 0x86#8, 0#8, 0#8, 0#8, 0#8, 0#8, 0#8, 0#8, 0x05#8] ++
    hello ++ header ++ [tilde]

/-- Reset, with the marker '~'. -/
def configured : State := { State.reset with marker := tilde, mkv := true }
/-- V-ENC-1's inputs. -/
def ready : State := { configured with hdr := holding header, data := holding hello, fVer := 1#8 }
/-- V-DEC-1's input. -/
def received : State := { configured with wire := holding helloFrame }
/-- V-DEC-1's result, in the fields VAL reads. -/
def decoded : State :=
  { received with fMark := tilde, hdr := holding header, fVer := 1#8, fCrc := 0x3610A686#32, fLen := 5#64,
                  data := holding hello }
/-- The inputs of an escape: DATA, S and R. -/
def transform (d a r : Bytes) : State :=
  { State.reset with data := holding d, arg0 := holding a, arg1 := holding r }
/-- A candidate marker in ARG0. -/
def candidate (x : Bytes) : State := { State.reset with arg0 := holding x }
/-- A command in flight, with turns given. -/
def flying (w : Word) (turns : List Turn) : State := { State.reset.accept w with turns := turns }
/-- An idle host port. -/
def port (sel : BitVec 3) (ptr : Word) : State := { State.reset with bufSel := sel, bufPtr := ptr }

/-- The state an answer gives (that of reset, were there none). -/
def after : Answer → State
  | .next t => t
  | .fault _ => State.reset
  | .refused _ => State.reset

theorem exec_after (i : Instr) (s : State) : exec i s = .next (after (exec i s)) := by
  rcases exec_cases i s with ⟨c, _, _, h⟩ | ⟨u, _, h⟩ <;> rw [h] <;> rfl

/-! ## Well-formedness: one ill-formed word for each condition of R84 -/

theorem test_wf_unknown_opcode : (⟨0x08#8, 0#4, 0#4, 0#16⟩ : CommandFields).wellFormed = false := by decide
theorem test_wf_reserved_bits : (⟨0x00#8, 0#4, 0#4, 1#16⟩ : CommandFields).wellFormed = false := by decide
theorem test_wf_unused_field : (⟨0x04#8, 1#4, 1#4, 0#16⟩ : CommandFields).wellFormed = false := by decide
theorem test_wf_buffer_id : (⟨0x02#8, 5#4, 0#4, 0#16⟩ : CommandFields).wellFormed = false := by decide
theorem test_wf_legal : (⟨0x02#8, 1#4, 2#4, 0#16⟩ : CommandFields).wellFormed = true := by decide

/-! ## Decoding: words written out bit by bit from R80 and R83 (RSV, DST, SRC, OPC) -/

theorem test_decode_nop : decode 0b0000000000000000_0000_0000_00000000#32 = .ok .nop := by decide
theorem test_decode_setmk : decode 0b0000000000000000_0000_0000_00000001#32 = .ok .setmk := by decide
theorem test_decode_esc : decode 0b0000000000000000_0010_0001_00000010#32 = .ok (.esc .wire .data) := by decide
theorem test_decode_unesc : decode 0b0000000000000000_0001_0010_00000011#32 = .ok (.unesc .data .wire) := by decide
theorem test_decode_crc : decode 0b0000000000000000_0000_0100_00000100#32 = .ok (.crc .arg1) := by decide
theorem test_decode_enc : decode 0b0000000000000000_0000_0000_00000101#32 = .ok .enc := by decide
theorem test_decode_dec : decode 0b0000000000000000_0000_0000_00000110#32 = .ok .dec := by decide
theorem test_decode_val : decode 0b0000000000000000_0000_0000_00000111#32 = .ok .val := by decide
theorem test_decode_table_word : decodeTableWord 32 0x2102 = some (.esc .wire .data) := by decide
theorem test_decode_illegal : decodeTableWord 32 0x5002 = none := by decide

/-! ## One step each (95_test_vectors.md) -/

/-- R100: STATUS reads 2 after a NOP from reset. -/
theorem test_nop_status : (after (exec .nop State.reset)).statusWord = 0x00000002#32 := by decide
/-- V-MK-4. -/
theorem test_setmk_tilde : (after (exec .setmk (candidate [tilde]))).statusWord = 0x00000012#32 := by decide
/-- V-MK-10: '#' is kept. -/
theorem test_setmk_keeps :
    let t := after (exec .setmk { candidate [0x00#8] with marker := 0x23#8, mkv := true })
    t.err = .configError ∧ t.marker = 0x23#8 ∧ t.mkv = true := by decide
/-- V-ESC-6: a match after a skipped byte. -/
theorem test_esc_skips :
    (after (exec (.esc .wire .data) (transform [0x61#8, 0x61#8, 0x62#8] [0x61#8, 0x62#8] [0x5A#8, 0x5A#8, 0x5A#8]))).content
      .wire = [0x61#8, 0x5A#8, 0x5A#8, 0x5A#8] := by decide
/-- V-ESC-14: ARG0 is source, boundary and destination. -/
theorem test_esc_aliased :
    (after (exec (.esc .arg0 .arg0) (transform [] [0x61#8, 0x62#8] [0x62#8]))).content .arg0 = [0x62#8] := by decide
/-- V-ESC-2: a literal R in the input is resolved. -/
theorem test_unesc_literal :
    (after (exec (.unesc .wire .data) (transform [tilde, tilde] [tilde] [tilde, tilde]))).content .wire = [tilde] := by decide
/-- V-ESC-4: an empty R is no operation for UNESC too. -/
theorem test_unesc_empty :
    (after (exec (.unesc .wire .data) (transform [0x61#8, 0x62#8] [0x62#8] []))).content .wire = [0x61#8, 0x62#8] := by
  decide
/-- V-CRC-2. -/
theorem test_crc_hello : (after (exec (.crc .data) (transform hello [] []))).crcRes = 0x3610A686#32 := by decide +kernel
/-- V-CRC-9: leading zeros count. -/
theorem test_crc_zeros :
    (after (exec (.crc .data) (transform [0#8, 0#8, 0#8, 0#8] [] []))).crcRes = 0x2144DF1C#32 := by decide +kernel
/-- V-ENC-1. -/
theorem test_enc_hello : (after (exec .enc ready)).content .wire = helloFrame := by decide +kernel
/-- V-ENC-10's error: one byte too many for WIRE. -/
theorem test_enc_capacity :
    (after (exec .enc { ready with params := ⟨0, 65536, 39⟩ })).statusWord = 0x00000A12#32 := by decide +kernel
/-- V-DEC-1. -/
theorem test_dec_hello :
    let t := after (exec .dec received)
    t.fMark = tilde ∧ t.fVer = 1#8 ∧ t.fCrc = 0x3610A686#32 ∧ t.fLen = 5#64 ∧ t.content .hdr = header ∧
      t.content .data = hello := by decide +kernel
/-- V-DEC-2. -/
theorem test_dec_short :
    (after (exec .dec { configured with wire := holding (List.replicate 34 0#8) })).err = .incompleteFrameError := by
  decide +kernel
/-- V-VAL-7: all 64 bits of F_LEN count. -/
theorem test_val_high_length :
    (after (exec .val { decoded with fLen := 0x100000005#64 })).err = .lengthMismatchError := by decide +kernel
/-- V-VAL-9: check 3 before check 4. -/
theorem test_val_order :
    (after (exec .val { decoded with fVer := 0#8, fCrc := 0#32 })).err = .versionRangeError := by decide +kernel
/-- V-LCK-2, V-LCK-3: a dropped command and a dropped operand write. -/
theorem test_lockout :
    (writeReg .fVer 5#32 (writeReg .cmd 0#32 (writeReg .cmd 0x104#32 configured))).statusWord = 0x0000001D#32 := by decide
/-- P4, line 11: an illegal word completes with code 11. -/
theorem test_illegal_completes : (after (step (flying 0x00000008#32 []))).statusWord = 0x00000B02#32 := by decide
/-- The storage of reset is in canonical form. -/
theorem test_reset_storage : ∀ k, (State.reset.buf k).store.wf = true := by intro k; cases k <;> decide

/-! ## Witnesses: for each statement with hypotheses, a case (one per clause, at boundary values) that meets them -/

theorem inv_of {s : State} (hp : s.params.legal = true)
    (hb : (s.hdr.ok 16 ∧ s.data.ok s.params.dataCap) ∧ s.wire.ok s.params.wireCap ∧ s.arg0.ok 32 ∧ s.arg1.ok 32)
    (hm : s.mkv = true ↔ 32 ≤ s.marker.toNat ∧ s.marker.toNat ≤ 126) (hu : s.mkv = false ↔ s.marker = 0#8)
    (hf : s.busy = true → s.done = false ∧ s.err = .ok) : s.Inv :=
  ⟨hp, fun k => by
    obtain ⟨⟨h0, h1⟩, h2, h3, h4⟩ := hb
    cases k <;> assumption, hm, hu, hf⟩

theorem empty_ok (cap : Nat) : (⟨0, []⟩ : Buffer).ok cap := Buffer.ok_reset cap

theorem holding_ok {x : Bytes} {cap : Nat} (h : x.length ≤ cap) : (holding x).ok cap :=
  ⟨h, by have := Memory.wf_overwrite x (m := []) rfl; simpa [Memory.overwrite, holding] using this,
    fun c hc => by have := Memory.mem_cellsFrom hc; omega⟩

theorem inv_reset : State.reset.Inv :=
  inv_of (by decide) ⟨⟨empty_ok _, empty_ok _⟩, empty_ok _, empty_ok _, empty_ok _⟩ (by decide) (by decide) (by decide)
theorem inv_ready : ready.Inv :=
  inv_of (by decide) ⟨⟨holding_ok (by decide), holding_ok (by decide)⟩, empty_ok _, empty_ok _, empty_ok _⟩ (by decide)
    (by decide) (by decide)
theorem inv_decoded : decoded.Inv :=
  inv_of (by decide) ⟨⟨holding_ok (by decide), holding_ok (by decide)⟩, holding_ok (by decide), empty_ok _, empty_ok _⟩
    (by decide) (by decide) (by decide)

theorem witness_DecodingIsTotalInTheOrderOfItsChecks :
    (Instr.crc .data).row ∈ opcodeRows ∧ (Instr.crc .data).row.covers 0x00000104#32 = true ∧
    (fieldsOf 0x00010008#32).opcodeKnown = false ∧
    ((fieldsOf 0x00010007#32).opcodeKnown = true ∧ (fieldsOf 0x00010007#32).reservedZero = false) ∧
    ((fieldsOf 0x00005504#32).opcodeKnown = true ∧ (fieldsOf 0x00005504#32).reservedZero = true ∧
      (fieldsOf 0x00005504#32).unusedZero = false) ∧
    ((fieldsOf 0x00000504#32).opcodeKnown = true ∧ (fieldsOf 0x00000504#32).reservedZero = true ∧
      (fieldsOf 0x00000504#32).unusedZero = true ∧ (fieldsOf 0x00000504#32).buffersNamed = false) := by decide

theorem witness_IllegalWordCompletesWithCodeEleven :
    State.reset.busy = false ∧ (fieldsOf (flying 8#32 []).pending).wellFormed = false := by decide

theorem witness_StepRunsThePendingCommand :
    ((flying 4#32 []).busy = true ∧ (flying 4#32 []).nextTurn = .engine ∧
      decode (flying 4#32 []).pending = .ok (.crc .hdr)) ∧
    decodeTableWord 32 0x204 = some (.crc .wire) := by decide

theorem witness_StepOfEachTurn :
    State.reset.nextTurn = .host ∧
    ((({ State.reset with turns := [.engine] } : State).nextTurn = .engine) ∧ State.reset.busy = false) ∧
    (flying 0#32 [.reset]).nextTurn = .reset ∧ (flying 0#32 [.reset]).turns = .reset :: [] ∧
    State.reset.turns = [] ∧ ((flying 0#32 []).turns = [] ∧ (flying 0#32 []).busy = true) := by decide

theorem witness_CmdWriteIsAcceptedOrDropped : (flying 0#32 []).busy = true ∧ State.reset.busy = false := by decide

theorem witness_CommandInFlightEnds : (flying 0#32 [.host, .host]).busy = true := by decide

theorem witness_RunIssuesCompletesAndPolls :
    let s := State.reset.withQueue (runWord 0 0#32)
    s.busy = false ∧ s.turns = [] ∧ s.hostQueue = runWord s.params.base 0#32 ++ [] := by decide

theorem witness_AddressDecodeIgnoresTheLowBits :
    3 < 4 ∧ Reg.at 0x100 (0x100 + Reg.offset .reserved + 3) = .reserved ∧ Reg.at 0x100 (0x100 + 0x0F) = .status := by decide

theorem witness_BusyLockout :
    (flying 0#32 []).busy = true ∧ Reg.crcRes ≠ .id ∧ Reg.crcRes ≠ .status ∧
    Reg.bufData ∈ [Reg.fMark, .fVer, .fCrc, .fLenLo, .fLenHi, .bufSel, .bufLen, .bufPtr, .bufData] ∧
    Reg.reserved ∈ [Reg.id, .marker, .crcRes, .reserved] ∧ Reg.bufData ≠ .ctrl ∧
    (0xFFFFFFFE#32 : Word).getLsbD 0 = false := by decide

theorem witness_IdleRegisterReads : State.reset.busy = false ∧ Reg.bufLen ≠ .bufData := by decide

theorem witness_IdleRegisterWrites :
    State.reset.busy = false ∧ Reg.marker ∈ [Reg.id, .marker, .crcRes, .reserved] := by decide

theorem witness_BufDataRead :
    ((port 0#3 15#32).busy = false ∧ (port 0#3 15#32).bufSel.toNat = BufId.hdr.num ∧
      (port 0#3 15#32).bufPtr.toNat < (port 0#3 15#32).cap .hdr) ∧
    ((port 4#3 32#32).busy = false ∧ (port 4#3 32#32).bufSel.toNat = BufId.arg1.num ∧
      (port 4#3 32#32).cap .arg1 ≤ (port 4#3 32#32).bufPtr.toNat) ∧
    ((port 5#3 0#32).busy = false ∧ 5 ≤ (port 5#3 0#32).bufSel.toNat) := by decide

theorem witness_BufDataWrite :
    ((port 0#3 0#32).busy = false ∧ (port 0#3 0#32).bufSel.toNat = BufId.hdr.num ∧
      (port 0#3 0#32).bufPtr.toNat < (port 0#3 0#32).cap .hdr ∧ BufId.data ≠ BufId.hdr) ∧
    ((port 0#3 16#32).busy = false ∧ (port 0#3 16#32).bufSel.toNat = BufId.hdr.num ∧
      (port 0#3 16#32).cap .hdr ≤ (port 0#3 16#32).bufPtr.toNat) ∧
    ((port 7#3 0#32).busy = false ∧ 5 ≤ (port 7#3 0#32).bufSel.toNat) := by decide

theorem witness_BufLenTakesALegalValue :
    ((port 4#3 0#32).busy = false ∧ (port 4#3 0#32).params.legal = true ∧
      (port 4#3 0#32).bufSel.toNat = BufId.arg1.num) ∧
    ((port 5#3 0#32).busy = false ∧ (port 5#3 0#32).params.legal = true ∧ 5 ≤ (port 5#3 0#32).bufSel.toNat) := by decide

theorem witness_LockoutFreezesTheOperands :
    ∃ s t : State, s.busy = true ∧ s.nextTurn = .host ∧ ¬ s.resetsNext ∧ step s = .next t := by
  refine ⟨{ flying 0#32 [.host] with hostQueue := [wr 0 .fVer 5#32] }, _, rfl, rfl, ?_, rfl⟩
  rintro (h | ⟨_, a, v, rest, h, ha, _⟩)
  · cases h
  · cases h; revert ha; decide

theorem witness_LoadFillsTheBuffer :
    let x : Bytes := List.replicate 16 0xAA#8
    let s := State.reset.withQueue (load 0 .hdr x)
    s.Inv ∧ s.busy = false ∧ s.turns = [] ∧ x.length ≤ s.cap .hdr ∧ s.hostQueue = load s.params.base .hdr x ++ [] :=
  ⟨inv_of (by decide) ⟨⟨empty_ok _, empty_ok _⟩, empty_ok _, empty_ok _, empty_ok _⟩ (by decide) (by decide) (by decide),
    rfl, rfl, by decide, by decide⟩

theorem witness_DumpReturnsTheBuffer :
    let s := ready.withQueue (dump 0 .hdr)
    s.Inv ∧ s.busy = false ∧ s.turns = [] ∧ s.hostQueue = dump s.params.base .hdr ++ [] ∧ (s.buf .hdr).len = 10 :=
  ⟨inv_of (by decide) ⟨⟨holding_ok (by decide), holding_ok (by decide)⟩, empty_ok _, empty_ok _, empty_ok _⟩ (by decide)
    (by decide) (by decide), rfl, rfl, rfl, rfl⟩

theorem witness_NopOnlyReportsOk :
    (∃ t, exec .nop State.reset = .next t) ∧ State.reset.ovr = false ∧ State.reset.haz = false ∧
    State.reset.mkv = false ∧ (flying 0x100#32 []).pending.extractLsb' 0 8 = 0x00#8 ∧ (flying 0x100#32 []).pending ≠ 0#32 :=
  ⟨⟨_, rfl⟩, by decide⟩

theorem witness_SetmkSetsTheMarker :
    ((candidate [32#8]).content .arg0 = [32#8] ∧ 32 ≤ (32#8).toNat ∧ (32#8).toNat ≤ 126) ∧
    ((candidate [126#8]).content .arg0 = [126#8] ∧ 32 ≤ (126#8).toNat ∧ (126#8).toNat ≤ 126) ∧
    ((candidate []).content .arg0).length ≠ 1 ∧ ((candidate [32#8, 32#8]).content .arg0).length ≠ 1 ∧
    ((candidate [31#8]).content .arg0 = [31#8] ∧ (31#8).toNat < 32) ∧
    ((candidate [127#8]).content .arg0 = [127#8] ∧ 126 < (127#8).toNat) ∧
    ((candidate [32#8]).mkv = false ∧ (after (exec .setmk (candidate [32#8]))).mkv = true) := by decide

theorem witness_WhoWritesTheMarkerAndTheChecksumResult :
    ∃ s t : State, step s = .next t ∧ ¬ s.resetsNext ∧ ¬ s.completesNext .setmk ∧ (∀ k, ¬ s.completesNext (.crc k)) := by
  refine ⟨flying 0#32 [], _, rfl, ?_, ?_, fun k => ?_⟩
  · rintro (h | ⟨h, _⟩) <;> cases h
  · rintro ⟨_, _, h⟩; revert h; decide
  · rintro ⟨_, _, h⟩; revert h; cases k <;> decide

theorem witness_OnlyFrameCommandsReadTheMarker :
    (Instr.val ∈ [Instr.enc, .dec, .val] ∧ State.reset.mkv = false) ∧
    (Instr.esc .hdr .data ≠ .setmk ∧ Instr.esc .hdr .data ∉ [Instr.enc, .dec, .val] ∧
      ∃ t, exec (.esc .hdr .data) State.reset = .next t) ∧
    (∃ t, exec .setmk (candidate [32#8]) = .next t ∧ t.err = .ok) ∧
    (∃ t, exec .setmk (candidate []) = .next t ∧ t.err ≠ .ok) :=
  ⟨by decide, ⟨by decide, by decide, _, rfl⟩, ⟨_, rfl, by decide⟩, ⟨_, rfl, by decide⟩⟩

theorem witness_EscapeIsTheLoopOfTheSpec :
    ([tilde] : Bytes) ≠ [] ∧ escapeLoop [tilde, 0#8] [tilde] [0#8] 2 0 [] = [0#8, 0#8] ∧ ([] : Bytes) = [] := by decide

theorem witness_EscapeLength : ([0x61#8, 0x61#8] : Bytes) ≠ [] ∧ ([0x58#8] : Bytes) ≠ [] := by decide

theorem witness_UnescapeInvertsEscapeWhenTheReplacementStartsWithTheBoundary :
    ([tilde] : Bytes) ≠ [] ∧ ([tilde] : Bytes) <+: [tilde, 0x61#8] := by decide

theorem witness_EscStoresTheEscapedSource :
    let s := transform (List.replicate 8 tilde) [tilde] [tilde, tilde]
    let r := transform (List.replicate 9 tilde) [tilde] [tilde, tilde]
    (escape (s.content .data) (s.content .arg0) (s.content .arg1)).length ≤ s.cap .hdr ∧
    r.cap .hdr < (escape (r.content .data) (r.content .arg0) (r.content .arg1)).length := by decide

theorem witness_UnescStoresTheUnescapedSource :
    let s := transform (List.replicate 8 tilde) [tilde, tilde] [tilde]
    let r := transform (List.replicate 9 tilde) [tilde, tilde] [tilde]
    (unescape (s.content .data) (s.content .arg0) (s.content .arg1)).length ≤ s.cap .hdr ∧
    r.cap .hdr < (unescape (r.content .data) (r.content .arg0) (r.content .arg1)).length := by decide

theorem witness_ChecksumIsAffine :
    ([0#8, 1#8] : Bytes).length = ([2#8, 3#8] : Bytes).length ∧
    ([2#8, 3#8] : Bytes).length = ([4#8, 5#8] : Bytes).length := by decide

theorem witness_ChecksumDetectsOneChangedByte : (0x6F#8 : Byte) ≠ 0x6E#8 := by decide

theorem witness_EncWritesTheFrame :
    let s : State := { ready with params := ⟨0, 65536, 40⟩ }
    s.mkv = true ∧ s.content .hdr = header ∧ header.length = 10 ∧ s.content .data = hello ∧
    hello.length ≤ 0xFFFFFFFF ∧ 35 + (fesc hello s.marker header).length ≤ s.params.wireCap := by decide +kernel

theorem witness_EncReportsTheFirstError :
    (ready.Inv ∧ ∃ t, exec .enc ready = .next t) ∧ State.reset.mkv = false ∧
    (configured.mkv = true ∧ (configured.content .hdr).length ≠ 10) ∧
    (∃ s : State, s.mkv = true ∧ (s.content .hdr).length = 10 ∧ 0xFFFFFFFF < (s.content .data).length) ∧
    (∃ s : State, s.mkv = true ∧ (s.content .hdr).length = 10 ∧ (s.content .data).length ≤ 0xFFFFFFFF ∧
      s.params.wireCap < 35 + (fesc (s.content .data) s.marker (s.content .hdr)).length) := by
  refine ⟨⟨inv_ready, _, exec_after _ _⟩, rfl, ⟨rfl, by decide⟩, ⟨{ ready with data := ⟨0x100000000, []⟩ }, rfl, ?_, ?_⟩,
    { ready with params := ⟨0, 65536, 39⟩ }, rfl, ?_⟩
  · decide
  · rw [length_content]; decide
  · decide +kernel

theorem witness_FrameUnescapeInvertsFrameEscape : header ≠ [] := by decide

theorem witness_FrameEscapeSize :
    header.length = 10 ∧ ((fesc (List.replicate 5 tilde) tilde (List.replicate 10 tilde)).length = 4 * 5) ∧
    (ready.Inv ∧ 4 * ready.params.dataCap + 35 ≤ ready.params.wireCap ∧ ∃ t, exec .enc ready = .next t) ∧
    (1073741815 ≤ 1073741815) :=
  ⟨by decide, by decide +kernel, ⟨inv_ready, by decide, _, exec_after _ _⟩, by decide⟩

theorem witness_DecWritesTheFields :
    let s : State := { received with params := ⟨0, 5, 262179⟩ }
    s.mkv = true ∧
    s.content .wire = [tilde] ++ header ++ [1#8] ++ [0x36#8, 0x10#8, 0xA6#8, 0x86#8] ++
      [0#8, 0#8, 0#8, 0#8, 0#8, 0#8, 0#8, 5#8] ++ hello ++ (header ++ [tilde]) ∧
    header.length = 10 ∧ (header ++ [tilde]).length = 11 ∧ (funesc hello s.marker header).length ≤ s.params.dataCap := by
  decide +kernel

theorem witness_DecReportsTheFirstError :
    let c : State := { configured with wire := holding (List.replicate 34 0#8) }
    let r : State := { received with params := ⟨0, 4, 262179⟩ }
    State.reset.mkv = false ∧ (c.mkv = true ∧ (c.content .wire).length < 35) ∧
    (r.mkv = true ∧ 35 ≤ (r.content .wire).length ∧
      r.params.dataCap < (funesc (((r.content .wire).drop 24).take ((r.content .wire).length - 35)) r.marker
        (((r.content .wire).drop 1).take 10)).length) := by decide +kernel

theorem witness_TrailingCopiesAreNotRead :
    ∃ (s s' t u : State) (A Z Z' : Bytes), s.content .wire = A ++ Z ∧ s'.content .wire = A ++ Z' ∧ Z.length = 11 ∧
      Z'.length = 11 ∧ Z ≠ Z' ∧ ({ s' with wire := s.wire } : State) = s ∧ exec .dec s = .next t ∧ exec .val t = .next u := by
  refine ⟨received, { received with wire := holding (helloFrame.take 29 ++ List.replicate 11 0#8) }, _, _,
    helloFrame.take 29, header ++ [tilde], List.replicate 11 0#8, by decide +kernel, by decide +kernel, rfl, rfl,
    by decide, rfl, exec_after _ _, exec_after _ _⟩

theorem witness_FrameRoundTrip :
    let s := ready.withQueue (runWord 0 0x00000005#32 ++ runWord 0 0x00000006#32 ++ runWord 0 0x00000007#32)
    s.Inv ∧ s.busy = false ∧ s.turns = [] ∧ s.mkv = true ∧ s.content .hdr = header ∧ header.length = 10 ∧
    1 ≤ s.fVer.toNat ∧ s.content .data = hello ∧ 35 + (fesc hello s.marker header).length ≤ s.params.wireCap ∧
    s.params.wireCap = Config.defaultWireCap s.params.dataCap ∧ s.params.dataCap ≤ 1073741815 :=
  ⟨inv_of (by decide) ⟨⟨holding_ok (by decide), holding_ok (by decide)⟩, empty_ok _, empty_ok _, empty_ok _⟩ (by decide)
    (by decide) (by decide), rfl, rfl, rfl, by decide, rfl, by decide, by decide, by decide +kernel, by decide, by decide⟩

/-- V-TAM-6's kind: the region "hello" becomes "helln", which decodes to another payload; and the region unchanged. -/
theorem witness_TamperedRegionVerdict :
    let X : Bytes := [0x68#8, 0x65#8, 0x6C#8, 0x6C#8, 0x6E#8]
    let f := frameBytes tilde header 1#8 (crc32 hello) 5#64 X
    let s : State := { configured with wire := holding f }
    s.mkv = true ∧ X.length = (fesc hello s.marker header).length ∧ (funesc X s.marker header).length ≤ s.params.dataCap ∧
    s.content .wire = f ∧ funesc X s.marker header ≠ hello ∧ crc32 (funesc X s.marker header) ≠ crc32 hello ∧
    funesc (fesc hello s.marker header) s.marker header = hello ∧
    (after (exec .dec s)).err = .ok ∧ (after (exec .val (after (exec .dec s)))).err = .checksumMismatchError := by
  decide +kernel

/-- The leading fields of V-ENC-1's frame, one changed at a time (V-TAM-1 to V-TAM-5). -/
theorem witness_TamperedLeadingFieldVerdict :
    let w (mk ver : Byte) (ck : Word) (ln : BitVec 64) (h : Bytes) : Bytes :=
      [mk] ++ h ++ [ver] ++ be32 ck ++ be64 ln ++ fesc hello tilde header ++ (header ++ [tilde])
    let f (mk ver : Byte) (ck : Word) (ln : BitVec 64) (h : Bytes) : State :=
      { configured with wire := holding (w mk ver ck ln h) }
    let verdictOf (s : State) : Status := (after (exec .val (after (exec .dec s)))).err
    let c : Word := 0x3610A686#32
    (after (exec .dec (f 0x23#8 1#8 c 5#64 header))).err = .ok ∧
    verdictOf (f 0x23#8 1#8 c 5#64 header) = .markerMismatchError ∧
    verdictOf (f tilde 0#8 c 5#64 header) = .versionRangeError ∧ verdictOf (f tilde 255#8 c 5#64 header) = .ok ∧
    verdictOf (f tilde 1#8 0#32 5#64 header) = .checksumMismatchError ∧
    verdictOf (f tilde 1#8 c 6#64 header) = .lengthMismatchError ∧
    verdictOf (f tilde 1#8 c 5#64 (List.replicate 10 0#8)) = .ok := by decide +kernel

/-- The last clause of TamperedLeadingFieldVerdict: a header whose doubled copy the region holds is changed. -/
theorem witness_TamperedLeadingHeaderSeen :
    let h : Bytes := List.replicate 10 tilde
    let p : Bytes := List.replicate 5 tilde
    let w : Bytes := [tilde] ++ header ++ [1#8] ++ be32 (crc32 p) ++ be64 5#64 ++ fesc p tilde h ++ (h ++ [tilde])
    let s : State := { configured with wire := holding w }
    s.mkv = true ∧ crc32 (funesc (fesc p tilde h) tilde header) ≠ crc32 p ∧ (after (exec .dec s)).err = .ok ∧
    (after (exec .val (after (exec .dec s)))).err = .checksumMismatchError := by decide +kernel

theorem witness_MarkerChangeBetweenEncodeAndValidate :
    ∃ (s t u w : State) (m : Byte), exec .enc s = .next t ∧ t.err = .ok ∧ m ≠ s.marker ∧
      exec .dec { t with marker := m, mkv := true } = .next u ∧ u.err = .ok ∧ exec .val u = .next w :=
  ⟨ready, _, _, _, 0x23#8, exec_after _ _, by decide +kernel, by decide, exec_after _ _, by decide +kernel, exec_after _ _⟩

theorem witness_ValReportsTheFirstFailingCheck : decoded.Inv ∧ ∃ t, exec .val decoded = .next t := ⟨inv_decoded, _, exec_after _ _⟩

theorem witness_ValAcceptsAValidFrame :
    decoded.mkv = true ∧ decoded.fMark = decoded.marker ∧ (decoded.content .hdr).length = 10 ∧ 1 ≤ decoded.fVer.toNat ∧
    crc32 (decoded.content .data) = decoded.fCrc ∧ (decoded.content .data).length = decoded.fLen.toNat := by decide +kernel

theorem witness_DecodedFramePassesTheHeaderCheck :
    (∃ t u, exec .dec received = .next t ∧ t.err = .ok ∧ exec .val t = .next u) ∧
    (∃ t, exec .val { decoded with hdr := ⟨9, []⟩ } = .next t ∧ t.err = .headerLengthError) :=
  ⟨⟨_, _, exec_after _ _, by decide +kernel, exec_after _ _⟩, _, exec_after _ _, by decide +kernel⟩

theorem witness_StatusCodesOfEachCommand :
    (∃ t, exec .nop State.reset = .next t) ∧ (∃ t, runPending (flying 8#32 []) = .next t ∧ t.err = .illegalCommandError) :=
  ⟨⟨_, rfl⟩, _, rfl, by decide⟩

theorem witness_ErrorCommitsNothing :
    (∃ t, runPending (flying 5#32 []) = .next t ∧ t.err ≠ .ok) ∧ (∃ t, exec .setmk State.reset = .next t ∧ t.err ≠ .ok) :=
  ⟨⟨_, rfl, by decide⟩, _, rfl, by decide⟩

theorem witness_CommandFrame :
    (after (exec .dec received)).err = .ok ∧ BufId.data ∈ buffersWritten .dec ∧
    BufId.wire ∉ buffersWritten .dec ∧ bytesStored .dec received .data ≤ 5 ∧ Instr.dec ≠ .setmk ∧
    (∀ k, Instr.dec ≠ .crc k) ∧ Instr.nop ≠ .dec :=
  ⟨by decide +kernel, by decide, by decide, by decide +kernel, by decide, fun k => by cases k <;> decide, by decide⟩

theorem witness_HostErrorFlagsAreSticky :
    ∃ s t : State, step s = .next t ∧ ¬ s.resetsNext ∧
      ¬ (s.nextTurn = .host ∧ ∃ a v rest, s.hostQueue = .write a v :: rest ∧ Reg.at s.params.base a = .status) ∧
      s.ovr = true ∧ s.haz = true := by
  refine ⟨{ flying 0#32 [] with ovr := true, haz := true }, _, rfl, ?_, ?_, rfl, rfl⟩
  · rintro (h | ⟨h, _⟩) <;> cases h
  · rintro ⟨h, _⟩; cases h

theorem witness_ResetLeavesTheResetValues :
    State.reset = State.reset ∧ ∃ s : State, (flying 0#32 []).resetBlock = s.resetBlock := ⟨rfl, _, rfl⟩

theorem witness_SoftResetIsAReset :
    (0xFFFFFFFF#32 : Word).getLsbD 0 = true ∧ (flying 0#32 [.reset]).nextTurn = .reset ∧
    ∃ s t : State, s.resetsNext ∧ s.busy = true ∧ step s = .next t ∧ t.nextTurn = .engine :=
  ⟨by decide, by decide, { flying 0#32 [.host, .engine] with hostQueue := [srst 0] }, _,
    .inr ⟨rfl, _, _, _, rfl, by decide, by decide⟩, rfl, rfl, by decide⟩

theorem witness_EveryStepKeepsTheInvariant : ready.Inv ∧ ∃ t, step ready = .next t := ⟨inv_ready, _, rfl⟩

end Sys2Proof.Tests
end

namespace Sys2Proof.Machine

/-! ## What a command's outputs leave unchanged (00_scope.md R9, 30_encoding.md R82) -/

@[simp] theorem buf_setMarker (s : State) (v : Byte) (k : BufId) : (s.setMarker v).buf k = s.buf k := by cases k <;> rfl
@[simp] theorem buf_setCrcRes (s : State) (v : Word) (k : BufId) : (s.setCrcRes v).buf k = s.buf k := by cases k <;> rfl

/-- A byte of storage depends on its buffer and on the draw only. -/
theorem storeByte_congr {s t : State} {k : BufId} (h : t.buf k = s.buf k) (he : t.epoch = s.epoch) (j : Nat) :
    t.storeByte k j = s.storeByte k j := by
  rw [State.storeByte, State.storeByte, h, he]

/-- `setbuf(d, x)` keeps every byte past those it stores, and all of every other buffer (R9). -/
theorem storeByte_setBuf_frame (s : State) (d : BufId) (x : Bytes) {k : BufId} {j : Nat}
    (h : (if k = d then x.length else 0) ≤ j) : (s.setBuf d x).storeByte k j = s.storeByte k j := by
  by_cases hk : k = d
  · subst hk
    rw [if_pos rfl] at h
    rw [storeByte_setBuf, dif_neg (by omega)]
  · exact storeByte_setBuf_other s x (Ne.symm hk) j

/-- A command writes no buffer but its destinations. -/
theorem Commits.buf_of_notMem {s u : State} {i : Instr} (h : Commits s i u) {k : BufId} (hk : k ∉ buffersWritten i) :
    u.buf k = s.buf k := by
  cases h with
  | nop | val => rfl
  | setmk => exact buf_setMarker ..
  | crc => exact buf_setCrcRes ..
  | esc | unesc | enc =>
    refine buf_setBuf_other _ _ fun e => hk ?_
    simp [buffersWritten, e]
  | dec => cases k <;> simp [buffersWritten, State.buf] at hk ⊢

/-- Every byte at or past what a command stores reads as before. -/
theorem Commits.storeByte_frame {s u : State} {i : Instr} (h : Commits s i u) {k : BufId} {j : Nat}
    (hj : bytesStored i s k ≤ j) : u.storeByte k j = s.storeByte k j := by
  cases h with
  | nop | val => rfl
  | setmk => exact storeByte_congr (buf_setMarker ..) rfl j
  | crc => exact storeByte_congr (buf_setCrcRes ..) rfl j
  | esc | unesc | enc => exact storeByte_setBuf_frame _ _ _ hj
  | dec =>
    rw [storeByte_writeFrame]
    refine (storeByte_setBuf_frame _ .data _ ?_).trans (storeByte_setBuf_frame _ .hdr _ ?_) <;>
      cases k <;> simp_all [bytesStored]

/-- The LEN of a destination is the number of bytes stored there. -/
theorem Commits.len_of_mem {s u : State} {i : Instr} (h : Commits s i u) {k : BufId} (hk : k ∈ buffersWritten i) :
    (u.buf k).len = bytesStored i s k := by
  cases h with
  | nop | val | setmk | crc => cases hk
  | esc | unesc | enc =>
    obtain rfl := List.mem_singleton.1 hk
    simp [buf_setBuf_same, bytesStored]
  | dec =>
    cases k <;> simp [buffersWritten, bytesStored, State.buf] at hk ⊢

/-- Only SETMK writes MARKER and MKV (R24). -/
theorem Commits.marker_of_ne_setmk {s u : State} {i : Instr} (h : Commits s i u) (hi : i ≠ .setmk) :
    u.marker = s.marker ∧ u.mkv = s.mkv := by
  cases h with
  | setmk => exact absurd rfl hi
  | _ => simp

/-- Only CRC writes CRC_RES (R29). -/
theorem Commits.crcRes_of_ne_crc {s u : State} {i : Instr} (h : Commits s i u) (hi : ∀ k, i ≠ .crc k) :
    u.crcRes = s.crcRes := by
  cases h with
  | crc k => exact absurd rfl (hi k)
  | _ => simp

/-- Only DEC writes the frame field registers (R82). -/
theorem Commits.fields_of_ne_dec {s u : State} {i : Instr} (h : Commits s i u) (hi : i ≠ .dec) :
    u.fMark = s.fMark ∧ u.fVer = s.fVer ∧ u.fCrc = s.fCrc ∧ u.fLen = s.fLen := by
  cases h with
  | dec => exact absurd rfl hi
  | _ => simp

/-- Settles O54: a command that raises an error writes STATUS only, and one that completes leaves what its outputs
(`Commits`) leave. -/
theorem commandFrame : Obligations.CommandFrame := by
  intro i s t ht
  rcases exec_cases i s with ⟨c, hc, _, e⟩ | ⟨u, hu, e⟩
  · rw [e] at ht; cases ht
    simp [hc]
  · rw [e] at ht; cases ht
    obtain ⟨hparams, hepoch, -, hpending, hovr, hhaz, hsel, hptr, hqueue, hturns, hreplies⟩ := hu.frame
    simp only [buf_finish, storeByte_finish]
    exact ⟨fun k => hu.buf_of_notMem, fun k j => hu.storeByte_frame, fun k hk _ => hu.len_of_mem hk,
      hu.marker_of_ne_setmk, hu.crcRes_of_ne_crc, hu.fields_of_ne_dec,
      hsel, hptr, hovr, hhaz, hpending, hparams, hepoch, hqueue, hturns, hreplies⟩

/-! ## Who writes MARKER, MKV and CRC_RES (R24, R29) -/

/-- From `s` to `t` the registers only a command or a reset can write stay, and so do the parameters and the draw's
index. -/
def State.KeepsResults (s t : State) : Prop :=
  t.marker = s.marker ∧ t.mkv = s.mkv ∧ t.crcRes = s.crcRes ∧ t.params = s.params ∧ t.epoch = s.epoch

/-- A read keeps the results: it changes at most BUF_PTR (R54). -/
theorem readReg_keepsResults (r : Reg) (s : State) : s.KeepsResults (readReg r s).2 := by
  rcases readReg_state r s with h | ⟨_, _, h⟩ <;> rw [h] <;> simp [State.KeepsResults]

theorem hostRead_keepsResults (a : Nat) (s : State) : s.KeepsResults (hostRead a s) :=
  readReg_keepsResults (Reg.at s.params.base a) s

theorem hostPoll_keepsResults (a : Nat) (s : State) : s.KeepsResults (hostPoll a s) := by
  simp only [hostPoll]
  split <;> exact readReg_keepsResults (Reg.at s.params.base a) s

/-- A write to CTRL with bit 0 set is a reset, in lockout too (R231, R57). -/
theorem writeReg_ctrl_reset {v : Word} (h : v.getLsbD 0 = true) (s : State) : writeReg .ctrl v s = s.resetBlock := by
  unfold writeReg
  split <;> simp only [lockedWrite, idleWrite, ctrlWrite, h, if_true]

/-- A host write to CTRL with bit 0 set is a reset, and any other write keeps the results (R231, R57). -/
theorem hostWrite_resets_or_keepsResults (a : Nat) (v : Word) (s : State) :
    (Reg.at s.params.base a = .ctrl ∧ v.getLsbD 0 = true ∧ hostWrite a v s = s.resetBlock) ∨
    s.KeepsResults (hostWrite a v s) := by
  by_cases h : Reg.at s.params.base a = .ctrl ∧ v.getLsbD 0 = true
  · obtain ⟨hr, hv⟩ := h
    exact .inl ⟨hr, hv, by rw [hostWrite, hr, writeReg_ctrl_reset hv]⟩
  · exact .inr (writeReg_frame h)

/-- A host move resets the block by its next write, or keeps the results. -/
theorem hostMove_resets_or_keepsResults (s : State) :
    (∃ a v rest, s.hostQueue = .write a v :: rest ∧ Reg.at s.params.base a = .ctrl ∧ v.getLsbD 0 = true ∧
      hostMove s = (s.withQueue rest).resetBlock) ∨
    s.KeepsResults (hostMove s) := by
  rcases hostMove_cases s with ⟨_, e⟩ | ⟨a, rest, _, e⟩ | ⟨a, rest, _, e⟩ | ⟨a, rest, _, e⟩ | ⟨a, v, rest, hq, e⟩ <;>
    rw [e]
  · exact .inr (by simp [State.KeepsResults])
  · exact .inr (hostRead_keepsResults a (s.withQueue rest))
  · exact .inr (hostPoll_keepsResults a (s.withQueue rest))
  · exact .inr (by simp [State.KeepsResults, hostReadCount])
  · rcases hostWrite_resets_or_keepsResults a v (s.withQueue rest) with ⟨hr, hv, e⟩ | h
    · exact .inl ⟨a, v, rest, hq, hr, hv, e⟩
    · exact .inr h

/-- A step is a reset, or keeps the results, or is the completion of a command that commits its outputs. -/
theorem step_results {s t : State} (h : step s = .next t) :
    (s.resetsNext ∧ t.params = s.params) ∨ s.KeepsResults t ∨
    (∃ i u, s.completesNext i ∧ Commits s.takeTurn i u ∧ t = u.finish .ok) := by
  rcases step_cases h with ⟨hn, rfl⟩ | ⟨_, _, rfl⟩ | ⟨_, _, c, _, rfl⟩ | hc | ⟨hn, rfl⟩
  · rcases hostMove_resets_or_keepsResults s.takeTurn with ⟨a, v, rest, hq, hr, hv, e⟩ | hk
    · exact .inl ⟨.inr ⟨hn, a, v, rest, hq, hr, hv⟩, by simp [e]⟩
    · exact .inr (.inl hk)
  · exact .inr (.inl (by simp [State.KeepsResults]))
  · exact .inr (.inl (by simp [State.KeepsResults]))
  · exact .inr (.inr hc)
  · exact .inl ⟨.inl hn, by simp⟩

/-- Settles O26: of a reset nothing but the parameters is claimed, and of a completion what `Commits` says of a command
that is not SETMK, or not a CRC. -/
theorem whoWritesTheMarkerAndTheChecksumResult : Obligations.WhoWritesTheMarkerAndTheChecksumResult := by
  intro s t h
  rcases step_results h with ⟨hr, hp⟩ | ⟨hm, hv, hc, hp, he⟩ | ⟨i, u, hi, hu, rfl⟩
  · exact ⟨absurd hr, absurd hr, hp, absurd hr⟩
  · exact ⟨fun _ _ => ⟨hm, hv⟩, fun _ _ => hc, hp, fun _ => he⟩
  · obtain ⟨hparams, hepoch, -⟩ := hu.frame
    exact ⟨fun _ hs => hu.marker_of_ne_setmk fun e => hs (e ▸ hi),
      fun _ hs => hu.crcRes_of_ne_crc fun k e => hs k (e ▸ hi), hparams, fun _ => hepoch⟩

/-! ## The invariant at reset (R6, R24, R33) -/

/-- A reset of an instance with legal capacities satisfies the invariant, whatever the draw. -/
theorem inv_afterReset {p : Config.Params} (hp : p.legal = true) (e : Nat) : (State.afterReset p e).Inv where
  params := hp
  buffers k := by rw [buf_afterReset]; exact Buffer.ok_reset _
  marked := by simp [State.afterReset]
  unmarked := by simp [State.afterReset]
  inFlight := by simp [State.afterReset]

/-- Settles O58: the capacities of the default instance (log 1) are legal. -/
theorem invariantHoldsAtReset : Obligations.InvariantHoldsAtReset :=
  inv_afterReset (by decide) 0

end Sys2Proof.Machine

namespace Sys2Proof.Machine

/-! ## Operations that write buffers only (R31, R55, R56) -/

/-- From `s` to `t` nothing changes but buffers and BUF_PTR. -/
def State.ChangesOnlyBuffers (s t : State) : Prop :=
  { t with hdr := s.hdr, data := s.data, wire := s.wire, arg0 := s.arg0, arg1 := s.arg1, bufPtr := s.bufPtr } = s

theorem changesOnlyBuffers_withBuf (s : State) (k : BufId) (b : Buffer) : s.ChangesOnlyBuffers (s.withBuf k b) := by
  cases k <;> rfl

theorem changesOnlyBuffers_bufLenWrite (v : Word) (s : State) : s.ChangesOnlyBuffers (bufLenWrite v s) := by
  unfold bufLenWrite
  split
  · exact changesOnlyBuffers_withBuf ..
  · rfl

theorem changesOnlyBuffers_bufDataWrite (v : Word) (s : State) : s.ChangesOnlyBuffers (bufDataWrite v s) := by
  unfold bufDataWrite
  split
  · split
    · exact changesOnlyBuffers_withBuf s _ _
    · rfl
  · rfl

/-! ## The invariant over a step (R6, R24, R33, R87, R88) -/

/-- What the invariant speaks of besides BUSY, DONE and ERR. -/
def State.invView (s : State) : Config.Params × Byte × Bool × List Buffer :=
  (s.params, s.marker, s.mkv, [s.hdr, s.data, s.wire, s.arg0, s.arg1])

theorem buf_of_invView {s t : State} (h : t.invView = s.invView) (k : BufId) : t.buf k = s.buf k := by
  simp only [State.invView, Prod.mk.injEq, List.cons.injEq] at h
  cases k <;> simp [State.buf, h]

/-- A state that shows the invariant the same, and no outcome while a command is in flight, keeps it. -/
theorem State.Inv.congr {s t : State} (h : s.Inv) (hv : t.invView = s.invView)
    (hf : t.busy = true → t.done = false ∧ t.err = .ok) : t.Inv := by
  obtain ⟨hp, hm, hk, -⟩ : t.params = s.params ∧ t.marker = s.marker ∧ t.mkv = s.mkv ∧ _ := by
    simpa only [State.invView, Prod.mk.injEq] using hv
  exact ⟨hp ▸ h.params, Buffer.ok_congr h.buffers (buf_of_invView hv) hp, hm ▸ hk ▸ h.marked, hm ▸ hk ▸ h.unmarked, hf⟩

theorem State.Inv.finish {s : State} (h : s.Inv) (c : Status) : (s.finish c).Inv :=
  h.congr rfl fun hb => by simp at hb

theorem State.Inv.accept {s : State} (h : s.Inv) (w : Word) : (s.accept w).Inv :=
  h.congr rfl fun _ => by simp

theorem State.Inv.statusWrite {s : State} (h : s.Inv) (v : Word) : (statusWrite v s).Inv :=
  h.congr rfl fun hb => by simp [h.inFlight hb]

theorem State.Inv.resetBlock {s : State} (h : s.Inv) : s.resetBlock.Inv :=
  (inv_afterReset h.params (s.epoch + 1)).congr rfl fun hb => by simp at hb

/-- SETMK's range check is what R24 asks of MARKER. -/
theorem State.Inv.setMarker {s : State} (h : s.Inv) {v : Byte} (lo : 32 ≤ v.toNat) (hi : v.toNat ≤ 126) :
    (s.setMarker v).Inv where
  params := h.params
  buffers := Buffer.ok_congr h.buffers (buf_setMarker s v) rfl
  marked := by simp [lo, hi]
  unmarked := by
    have : v ≠ 0#8 := by rintro rfl; simp at lo
    simpa using this
  inFlight := h.inFlight

/-- An operation that writes buffers only, and leaves them as R33 says they are, keeps the invariant. -/
theorem State.Inv.of_buffers {s t : State} (h : s.Inv) (hb : ∀ k, (t.buf k).ok (t.cap k))
    (ht : s.ChangesOnlyBuffers t) : t.Inv := by
  rw [← ht] at h
  exact ⟨h.params, hb, h.marked, h.unmarked, h.inFlight⟩

theorem State.Inv.setBuf {s : State} (h : s.Inv) {k : BufId} {x : Bytes} (hx : x.length ≤ s.cap k) :
    (s.setBuf k x).Inv :=
  h.of_buffers (Buffer.ok_setBuf h.buffers hx) (changesOnlyBuffers_withBuf ..)

/-- DEC stores a header of 10 bytes, which HDR holds (R6, R150). -/
theorem State.Inv.writeFrame {s : State} (h : s.Inv) {w d : Bytes} (hw : 11 ≤ w.length) (hd : d.length ≤ s.cap .data) :
    (s.writeFrame w d).Inv := by
  have hhdr : (frameHeader w).length ≤ s.cap .hdr := by
    rw [length_frameHeader hw]; simp [State.cap, Config.hdrCap]
  exact ((h.setBuf hhdr).setBuf (k := .data) (x := d) (by rwa [cap_setBuf])).congr rfl h.inFlight

/-- A command's outputs keep the invariant. -/
theorem Commits.inv {s u : State} {i : Instr} (hu : Commits s i u) (h : s.Inv) : u.Inv := by
  cases hu with
  | nop | val => exact h
  | setmk v _ lo hi => exact h.setMarker lo hi
  | esc _ _ hc | unesc _ _ hc | enc _ _ _ hc => exact h.setBuf hc
  | crc => exact h.congr rfl h.inFlight
  | dec _ hn hc => exact h.writeFrame (by omega) hc

/-- Every effect of a host write keeps the invariant. -/
theorem WriteEffect.inv {s t : State} (hw : WriteEffect s t) (h : s.Inv) : t.Inv := by
  cases hw with
  | same => exact h
  | reset => exact h.resetBlock
  | accept w => exact h.accept w
  | status v => exact h.statusWrite v
  | bufLen v => exact h.of_buffers (Buffer.ok_bufLenWrite v h.buffers) (changesOnlyBuffers_bufLenWrite v s)
  | bufData v => exact h.of_buffers (Buffer.ok_bufDataWrite v h.buffers) (changesOnlyBuffers_bufDataWrite v s)
  | ovr | haz | fMark | fVer | fCrc | fLen | bufSel | bufPtr => exact h.congr rfl h.inFlight

theorem readReg_inv {s : State} (h : s.Inv) (r : Reg) : (readReg r s).2.Inv := by
  rcases readReg_state r s with e | ⟨_, _, e⟩ <;> rw [e]
  · exact h
  · exact h.congr rfl h.inFlight

theorem hostMove_inv {s : State} (h : s.Inv) : (hostMove s).Inv := by
  have hq (q : List HostOp) : (s.withQueue q).Inv := h.congr rfl h.inFlight
  rcases hostMove_cases s with ⟨_, e⟩ | ⟨a, rest, _, e⟩ | ⟨a, rest, _, e⟩ | ⟨a, rest, _, e⟩ | ⟨a, v, rest, _, e⟩ <;>
    rw [e]
  · exact h
  · have hr := readReg_inv (hq rest) (Reg.at (s.withQueue rest).params.base a)
    exact hr.congr rfl hr.inFlight
  · have hr := readReg_inv (hq rest) (Reg.at (s.withQueue rest).params.base a)
    simp only [hostPoll]
    split <;> exact hr.congr rfl hr.inFlight
  · exact h.congr rfl h.inFlight
  · exact (writeReg_effect _ v _).inv (hq rest)

/-- Settles O59: each agent's move keeps the invariant, by everything a step can do (`step_cases`). -/
theorem everyStepKeepsTheInvariant : Obligations.EveryStepKeepsTheInvariant := by
  intro s t h hs
  have ht : s.takeTurn.Inv := h.congr rfl h.inFlight
  rcases step_cases hs with ⟨_, rfl⟩ | ⟨_, _, rfl⟩ | ⟨_, _, c, _, rfl⟩ | ⟨i, u, _, hu, rfl⟩ | ⟨_, rfl⟩
  · exact hostMove_inv ht
  · exact ht
  · exact ht.finish c
  · exact (hu.inv ht).finish .ok
  · exact ht.resetBlock


/-! ## OVR and HAZ (R204) -/

/-- From `s` to `t` OVR and HAZ stay set if they were. -/
def State.KeepsFlags (s t : State) : Prop := (s.ovr = true → t.ovr = true) ∧ (s.haz = true → t.haz = true)

theorem State.KeepsFlags.of_eq {s t : State} (ho : t.ovr = s.ovr) (hh : t.haz = s.haz) : s.KeepsFlags t :=
  ⟨fun h => ho.trans h, fun h => hh.trans h⟩

theorem State.ChangesOnlyBuffers.keepsFlags {s t : State} (h : s.ChangesOnlyBuffers t) : s.KeepsFlags t := by
  rw [← h]
  exact ⟨id, id⟩

theorem readReg_keepsFlags (r : Reg) (s : State) : s.KeepsFlags (readReg r s).2 := by
  rcases readReg_state r s with e | ⟨_, _, e⟩ <;> rw [e] <;> exact .of_eq rfl rfl

/-- A write that is neither a reset nor one to STATUS clears no flag; a dropped one sets OVR or HAZ (R57). -/
theorem writeReg_keepsFlags {r : Reg} {v : Word} {s : State} (hc : ¬ (r = .ctrl ∧ v.getLsbD 0 = true))
    (hs : r ≠ .status) : s.KeepsFlags (writeReg r v s) := by
  cases hb : s.busy
  · rw [writeReg_idle hb]
    cases r <;> simp only [idleWrite, cmdWrite, ctrlWrite, hb]
    case ctrl => rw [if_neg fun h => hc ⟨rfl, h⟩]; exact .of_eq rfl rfl
    case status => exact absurd rfl hs
    case bufLen => exact (changesOnlyBuffers_bufLenWrite v s).keepsFlags
    case bufData => exact (changesOnlyBuffers_bufDataWrite v s).keepsFlags
    all_goals exact .of_eq rfl rfl
  · rw [writeReg_locked hb]
    cases r <;> simp only [lockedWrite, cmdWrite, ctrlWrite, hb]
    case ctrl => rw [if_neg fun h => hc ⟨rfl, h⟩]; exact .of_eq rfl rfl
    case status => exact absurd rfl hs
    all_goals simp [State.KeepsFlags]

theorem hostPoll_keepsFlags (a : Nat) (s : State) : s.KeepsFlags (hostPoll a s) := by
  simp only [hostPoll]
  split <;> exact readReg_keepsFlags (Reg.at s.params.base a) s

/-- Settles O55: the only moves that clear a flag are the two the hypotheses exclude. -/
theorem hostErrorFlagsAreSticky : Obligations.HostErrorFlagsAreSticky := by
  intro s t h hr hw
  show s.KeepsFlags t
  rcases step_cases h with ⟨hn, rfl⟩ | ⟨_, _, rfl⟩ | ⟨_, _, c, _, rfl⟩ | ⟨i, u, _, hu, rfl⟩ | ⟨hn, rfl⟩
  · rcases hostMove_cases s.takeTurn with
      ⟨_, e⟩ | ⟨a, rest, _, e⟩ | ⟨a, rest, _, e⟩ | ⟨a, rest, _, e⟩ | ⟨a, v, rest, hq, e⟩ <;> rw [e]
    · exact .of_eq rfl rfl
    · exact readReg_keepsFlags _ (s.takeTurn.withQueue rest)
    · exact hostPoll_keepsFlags a (s.takeTurn.withQueue rest)
    · exact .of_eq rfl rfl
    · exact writeReg_keepsFlags (s := s.takeTurn.withQueue rest)
        (fun ⟨hctrl, hv⟩ => hr (.inr ⟨hn, a, v, rest, hq, hctrl, hv⟩)) (fun hst => hw ⟨hn, a, v, rest, hq, hst⟩)
  · exact .of_eq rfl rfl
  · exact .of_eq rfl rfl
  · obtain ⟨-, -, -, -, hovr, hhaz, -⟩ := hu.frame
    exact .of_eq hovr hhaz
  · exact absurd (.inl hn) hr

/-! ## STATUS (R23) -/

/-- The flags DONE, OVR, HAZ and MKV stand in bits 1 to 4 (R23). -/
theorem statusWord_flags (s : State) :
    s.statusWord.getLsbD 1 = s.done ∧ s.statusWord.getLsbD 2 = s.ovr ∧ s.statusWord.getLsbD 3 = s.haz ∧
    s.statusWord.getLsbD 4 = s.mkv := by
  simp only [State.statusWord, bit, BitVec.getLsbD_append]
  simp

/-- ERR stands in bits 11:8, between two fields that read 0 (R23). -/
theorem statusWord_fields (s : State) :
    s.statusWord.extractLsb' 5 3 = 0#3 ∧ s.statusWord.extractLsb' 8 4 = s.err.code ∧
    s.statusWord.extractLsb' 12 20 = 0#20 := by
  simp (disch := omega) only [State.statusWord, BitVec.extractLsb'_append_eq_of_le]
  exact ⟨BitVec.extractLsb'_append_eq_right, BitVec.extractLsb'_append_eq_right, rfl⟩

/-- Settles O14: a STATUS access is the same in lockout and outside. -/
theorem statusBitsAndWriteOneToClear : Obligations.StatusBitsAndWriteOneToClear := by
  refine ⟨fun s => ?_, fun s v => ?_⟩
  · obtain ⟨hdone, hovr, hhaz, hmkv⟩ := statusWord_flags s
    obtain ⟨hlow, herr, hhigh⟩ := statusWord_fields s
    exact ⟨statusWord_bit0 s, hdone, hovr, hhaz, hmkv, hlow, herr, hhigh, readReg_status s⟩
  · unfold writeReg
    split <;> rfl

/-! ## The plain registers outside lockout (R20 to R32, R53, R54) -/

theorem readReg_idle {s : State} (h : s.busy = false) (r : Reg) : readReg r s = idleRead r s := by
  simp [readReg, h]

/-- Settles O16: each value is `idleRead`'s, and only a read of BUF_DATA moves BUF_PTR (`readReg_state`). -/
theorem idleRegisterReads : Obligations.IdleRegisterReads := by
  intro s hb
  have read := readReg_idle hb
  exact ⟨read _, read _, read _, read _, read _, read _, read _, read _, read _, read _, read _, read _, read _,
    fun r hr => (readReg_state r s).resolve_right fun ⟨_, e, _⟩ => hr e⟩

/-- Settles O17: each half of F_LEN is joined with the other half as it was (R28). -/
theorem idleRegisterWrites : Obligations.IdleRegisterWrites := by
  intro s v hb
  have byte : v.setWidth 8 = v.extractLsb' 0 8 := BitVec.setWidth_eq_extractLsb' (by decide)
  have sel : v.setWidth 3 = v.extractLsb' 0 3 := BitVec.setWidth_eq_extractLsb' (by decide)
  simp only [writeReg_idle hb, idleWrite, byte, sel, true_and]
  refine ⟨fun r hr => ?_, rfl, ⟨_, rfl, ?_, ?_⟩, ⟨_, rfl, ?_, ?_⟩⟩
  · simp only [List.mem_cons, List.not_mem_nil, or_false] at hr
    obtain rfl | rfl | rfl | rfl := hr <;> rfl
  · exact BitVec.extractLsb'_append_eq_right
  · exact BitVec.extractLsb'_append_eq_left
  · exact BitVec.extractLsb'_append_eq_left
  · exact BitVec.extractLsb'_append_eq_right

/-- Settles O37: CRC commits CRC_RES alone (R132). -/
theorem crcWritesItsResult : Obligations.CrcWritesItsResult := by
  intro k s
  exact complete_eq (s.setCrcRes (crc32 (s.content k)))

/-! ## Reset at any time (R231, R232) -/

/-- With no command in flight the engine's turn only passes (R88). -/
theorem step_engine_idle {s : State} (hb : s.busy = false) (hn : s.nextTurn = .engine) : step s = .next s.takeTurn := by
  rw [step_engine hn, engineMove, if_neg (by simp [hb])]

/-- Either kind of reset leaves a reset block. -/
theorem step_of_resetsNext {s : State} (h : s.resetsNext) : ∃ u : State, step s = .next u.resetBlock := by
  rcases h with hn | ⟨hn, a, v, rest, hq, hctrl, hv⟩
  · exact ⟨_, step_reset hn⟩
  · refine ⟨s.takeTurn.withQueue rest, ?_⟩
    simp only [step_host hn, hostMove, takeTurn_hostQueue, hq, hostDo, hostWrite, withQueue_params, takeTurn_params,
      hctrl, writeReg_ctrl_reset hv]

/-- Settles O57: either kind of reset leaves a reset block, where the engine has no command to complete. -/
theorem softResetIsAReset : Obligations.SoftResetIsAReset := by
  refine ⟨fun s v hv => writeReg_ctrl_reset hv s, fun s hn => step_reset hn, fun s t hr h => ?_⟩
  obtain ⟨u, hu⟩ := step_of_resetsNext hr
  cases hu.symm.trans h
  exact ⟨rfl, rfl, rfl, step_engine_idle rfl⟩


/-! ## The buffer port outside lockout (R31, R35, R55, R56) -/

/-- A buffer with one byte of its storage written; LEN stays (R56). -/
def Buffer.put (b : Buffer) (i : Nat) (v : Byte) : Buffer := { b with store := b.store.write i v }

theorem bufDataRead_below {s : State} {k : BufId} (hk : s.selected = some k) (hp : s.bufPtr.toNat < s.cap k) :
    bufDataRead s = ((s.storeByte k s.bufPtr.toNat).setWidth 32, s.advancePtr) := by
  simp only [bufDataRead, hk, if_pos hp]

theorem bufDataRead_past {s : State} {k : BufId} (hk : s.selected = some k) (hp : s.cap k ≤ s.bufPtr.toNat) :
    bufDataRead s = (0#32, s.advancePtr) := by
  simp only [bufDataRead, hk, if_neg (Nat.not_lt.2 hp)]

theorem bufDataRead_reserved {s : State} (hk : s.selected = none) : bufDataRead s = (0#32, s.advancePtr) := by
  simp only [bufDataRead, hk]

theorem bufDataWrite_below {s : State} {k : BufId} (v : Word) (hk : s.selected = some k)
    (hp : s.bufPtr.toNat < s.cap k) :
    bufDataWrite v s = (s.withBuf k ((s.buf k).put s.bufPtr.toNat (v.setWidth 8))).advancePtr := by
  simp only [bufDataWrite, hk, if_pos hp, Buffer.put]

theorem bufDataWrite_past {s : State} {k : BufId} (v : Word) (hk : s.selected = some k)
    (hp : s.cap k ≤ s.bufPtr.toNat) :
    bufDataWrite v s = s.advancePtr := by
  simp only [bufDataWrite, hk, if_neg (Nat.not_lt.2 hp)]

theorem bufDataWrite_reserved {s : State} (v : Word) (hk : s.selected = none) : bufDataWrite v s = s.advancePtr := by
  simp only [bufDataWrite, hk]

theorem bufLenWrite_selected {s : State} {k : BufId} (v : Word) (hk : s.selected = some k) :
    bufLenWrite v s = s.withBuf k { s.buf k with len := min v.toNat (s.cap k) } := by
  simp only [bufLenWrite, hk]

theorem bufLenRead_selected {s : State} {k : BufId} (hk : s.selected = some k) :
    bufLenRead s = BitVec.ofNat 32 (s.buf k).len := by
  simp only [bufLenRead, hk]

/-- Settles O18: the three cases of a BUF_DATA read outside lockout. -/
theorem bufDataRead_spec : Obligations.BufDataRead := by
  intro s hb
  rw [readReg_idle hb]
  exact ⟨fun k hk hp => bufDataRead_below (selected_of_num hk) hp,
    fun k hk hp => bufDataRead_past (selected_of_num hk) hp, fun hr => bufDataRead_reserved (selected_of_reserved hr)⟩

theorem storeByte_withBuf_other (s : State) {k j : BufId} (b : Buffer) (h : k ≠ j) (i : Nat) :
    (s.withBuf k b).storeByte j i = s.storeByte j i :=
  storeByte_congr (buf_withBuf_other s b h) (withBuf_epoch s k b) i

/-- Writing one byte changes no other byte of any buffer. -/
theorem storeByte_put_frame (s : State) (k : BufId) (p : Nat) (v : Byte) {j : BufId} {i : Nat} (h : j ≠ k ∨ i ≠ p) :
    (s.withBuf k ((s.buf k).put p v)).storeByte j i = s.storeByte j i := by
  by_cases hj : k = j
  · subst hj
    have hi : p ≠ i := fun e => h.elim (· rfl) (· e.symm)
    simp only [State.storeByte, buf_withBuf_same, Buffer.put, Memory.read_write_other _ _ hi, withBuf_epoch]
  · exact storeByte_withBuf_other s _ hj i

/-- Settles O19: below the capacity the state written is `s` with one byte put into the selected buffer. -/
theorem bufDataWrite_spec : Obligations.BufDataWrite := by
  intro s v hb
  rw [writeReg_idle hb]
  refine ⟨fun k hk hp => ?_, fun k hk hp => bufDataWrite_past v (selected_of_num hk) hp,
    fun hr => bufDataWrite_reserved v (selected_of_reserved hr)⟩
  refine ⟨s.withBuf k ((s.buf k).put s.bufPtr.toNat (v.setWidth 8)), ?_, ?_, fun j i => storeByte_put_frame s k _ _,
    fun j => ?_, ?_⟩
  · simp only [idleWrite, bufDataWrite_below v (selected_of_num hk) hp, State.advancePtr, withBuf_bufPtr]
  · simp [State.storeByte, Buffer.put, BitVec.setWidth_eq_extractLsb']
  · by_cases hj : k = j
    · subst hj; simp [Buffer.put]
    · rw [buf_withBuf_other s _ hj]
  · cases k <;> rfl

/-- Changing LEN changes no byte of any storage (R31). -/
theorem storeByte_withBuf_len (s : State) (k : BufId) (n : Nat) (j : BufId) (i : Nat) :
    (s.withBuf k { s.buf k with len := n }).storeByte j i = s.storeByte j i := by
  by_cases hj : k = j
  · subst hj; simp [State.storeByte]
  · exact storeByte_withBuf_other s _ hj i

/-- Settles O20: a legal capacity is below 2^32, so BUF_LEN reads the whole LEN. -/
theorem bufLenTakesALegalValue : Obligations.BufLenTakesALegalValue := by
  intro s v hb hlegal
  rw [writeReg_idle hb]
  refine ⟨fun k hk => ⟨s.withBuf k { s.buf k with len := min v.toNat (s.cap k) }, ?_, ?_, ?_, ?_, ?_, ?_⟩, fun hr => ?_⟩
  · exact bufLenWrite_selected v (selected_of_num hk)
  · simp
  · have hsel : (s.withBuf k { s.buf k with len := min v.toNat (s.cap k) }).selected = some k :=
      selected_of_num (by simpa using hk)
    have hcap := cap_lt hlegal k
    rw [readReg_idle (by simpa using hb)]
    simp only [idleRead, bufLenRead_selected hsel, buf_withBuf_same, BitVec.toNat_ofNat]
    omega
  · exact storeByte_withBuf_len s k _
  · exact fun j hj => buf_withBuf_other s _ (Ne.symm hj)
  · cases k <;> rfl
  · have hsel := selected_of_reserved hr
    rw [readReg_idle hb]
    simp only [idleWrite, idleRead, bufLenWrite, bufLenRead, hsel, and_self]

/-! ## The host at the buffer port (R91) -/

/-- `s` with buffer k selected and holding `b`, BUF_PTR at `p` and the host's operations `q` still to do: what LOAD and
DUMP leave after each of their accesses. -/
def State.atPort (s : State) (k : BufId) (b : Buffer) (p : Word) (q : List HostOp) : State :=
  { s.withBuf k b with bufSel := BitVec.ofNat 3 k.num, bufPtr := p, hostQueue := q }

section
variable (s : State) (k : BufId) (b : Buffer) (p : Word) (q : List HostOp)

@[simp] theorem atPort_params : (s.atPort k b p q).params = s.params := withBuf_params s k b
@[simp] theorem atPort_busy : (s.atPort k b p q).busy = s.busy := withBuf_busy s k b
@[simp] theorem atPort_turns : (s.atPort k b p q).turns = s.turns := withBuf_turns s k b
@[simp] theorem atPort_epoch : (s.atPort k b p q).epoch = s.epoch := withBuf_epoch s k b
@[simp] theorem atPort_replies : (s.atPort k b p q).replies = s.replies := withBuf_replies s k b
@[simp] theorem atPort_hostQueue : (s.atPort k b p q).hostQueue = q := rfl
@[simp] theorem atPort_bufPtr : (s.atPort k b p q).bufPtr = p := rfl
@[simp] theorem atPort_bufSel : (s.atPort k b p q).bufSel.toNat = k.num := by cases k <;> rfl
@[simp] theorem atPort_selected : (s.atPort k b p q).selected = some k := selected_of_num (atPort_bufSel s k b p q)
@[simp] theorem atPort_cap (j : BufId) : (s.atPort k b p q).cap j = s.cap j := by cases j <;> simp [State.cap]
@[simp] theorem atPort_buf_same : (s.atPort k b p q).buf k = b := by cases k <;> rfl

theorem atPort_buf_other {j : BufId} (h : j ≠ k) : (s.atPort k b p q).buf j = s.buf j := by
  rw [← buf_withBuf_other s b (Ne.symm h)]; cases j <;> rfl

/-- At the port nothing differs but buffer k, BUF_SEL, BUF_PTR and the host's queue. -/
theorem atPort_frame : { s.atPort k b p q with
    hdr := s.hdr, data := s.data, wire := s.wire, arg0 := s.arg0, arg1 := s.arg1, bufSel := s.bufSel,
    bufPtr := s.bufPtr, hostQueue := s.hostQueue } = s := by
  cases k <;> rfl

end

section
variable {s : State} (hb : s.busy = false) (ht : s.turns = [])
include hb ht

theorem step_selects {k : BufId} {q : List HostOp}
    (hq : s.hostQueue = wr s.params.base .bufSel (BitVec.ofNat 32 k.num) :: q) :
    step s = .next (s.atPort k (s.buf k) s.bufPtr q) := by
  rw [step_wr hb ht hq]
  cases k <;> rfl

/-- At the port the host's `WR r, v` is the idle write of `r`. -/
theorem step_atPort_wr (k : BufId) (b : Buffer) (p : Word) (r : Reg) (v : Word) (q : List HostOp) :
    step (s.atPort k b p (wr s.params.base r v :: q)) = .next (idleWrite r v (s.atPort k b p q)) :=
  step_wr (rest := q) (by simpa using hb) (by simpa using ht) (by simp)

/-- At the port the host's `RD r` is the idle read of `r`, whose word it keeps. -/
theorem step_atPort_rd (k : BufId) (b : Buffer) (p : Word) (r : Reg) (q : List HostOp) :
    step (s.atPort k b p (rd s.params.base r :: q)) =
      .next ((idleRead r (s.atPort k b p q)).2.reply (idleRead r (s.atPort k b p q)).1) :=
  step_rd (rest := q) (by simpa using hb) (by simpa using ht) (by simp)

theorem step_atPort_ptr (k : BufId) (b : Buffer) (p v : Word) (q : List HostOp) :
    step (s.atPort k b p (wr s.params.base .bufPtr v :: q)) = .next (s.atPort k b v q) :=
  step_atPort_wr hb ht k b p .bufPtr v q

theorem step_atPort_setLen (k : BufId) (b : Buffer) (p v : Word) (q : List HostOp) :
    step (s.atPort k b p (wr s.params.base .bufLen v :: q)) =
      .next (s.atPort k { b with len := min v.toNat (s.cap k) } p q) := by
  rw [step_atPort_wr hb ht, idleWrite, bufLenWrite_selected v (atPort_selected s k b p q)]
  cases k <;> rfl

theorem step_atPort_store {k : BufId} (b : Buffer) {p : Word} (v : Byte) (q : List HostOp) (hp : p.toNat < s.cap k) :
    step (s.atPort k b p (wr s.params.base .bufData (v.setWidth 32) :: q)) =
      .next (s.atPort k (b.put p.toNat v) (p + 1#32) q) := by
  have hv : (v.setWidth 32).setWidth 8 = v := by simp
  rw [step_atPort_wr hb ht, idleWrite, bufDataWrite_below _ (atPort_selected s k b p q) (by simpa using hp), hv]
  cases k <;> rfl

theorem step_atPort_getLen (k : BufId) (b : Buffer) (p : Word) (q : List HostOp) :
    step (s.atPort k b p (rd s.params.base .bufLen :: q)) =
      .next ((s.reply (BitVec.ofNat 32 b.len)).atPort k b p q) := by
  rw [step_atPort_rd hb ht, idleRead, bufLenRead_selected (atPort_selected s k b p q), atPort_buf_same]
  cases k <;> rfl

theorem step_atPort_fetch {k : BufId} {p : Word} (q : List HostOp) (hp : p.toNat < s.cap k) :
    step (s.atPort k (s.buf k) p (rd s.params.base .bufData :: q)) =
      .next ((s.reply ((s.storeByte k p.toNat).setWidth 32)).atPort k (s.buf k) (p + 1#32) q) := by
  have hbyte : (s.atPort k (s.buf k) p q).storeByte k p.toNat = s.storeByte k p.toNat :=
    storeByte_congr (atPort_buf_same ..) (atPort_epoch ..) _
  rw [step_atPort_rd hb ht, idleRead, bufDataRead_below (atPort_selected ..) (by simpa using hp), atPort_bufPtr, hbyte]
  cases k <;> rfl

/-- DUMP's count puts as many reads at the head of the queue as the last reply says (log 5). -/
theorem step_atPort_count (k : BufId) (b : Buffer) (p v : Word) (a : Nat) (q : List HostOp) :
    step ((s.reply v).atPort k b p (.readCount a :: q)) =
      .next ((s.reply v).atPort k b p (List.replicate v.toNat (.read a) ++ q)) := by
  rw [step_idle (rest := q) (op := .readCount a) (by simpa using hb) (by simpa using ht) (by simp), hostDo,
    hostReadCount, withQueue_replies, atPort_replies]
  rfl

end

/-! ### LOAD -/

/-- A buffer with a sequence of bytes put at `i` and on, one after the other. -/
def Buffer.putAll (b : Buffer) (i : Nat) : Bytes → Buffer
  | [] => b
  | v :: x => (b.put i v).putAll (i + 1) x

@[simp] theorem len_putAll (b : Buffer) (i : Nat) (x : Bytes) : (b.putAll i x).len = b.len := by
  induction x generalizing b i with
  | nil => rfl
  | cons v x ih => exact ih (b.put i v) (i + 1)

/-- The bytes put read at their own indices, and the old storage elsewhere. -/
theorem read_putAll (b : Buffer) (i : Nat) (x : Bytes) (j : Nat) :
    (b.putAll i x).store.read j = (Memory.read (cellsFrom i x) j).or (b.store.read j) := by
  induction x generalizing b i with
  | nil => rfl
  | cons v x ih =>
    rw [Buffer.putAll, ih, cellsFrom, Memory.read_cons, Buffer.put, Memory.read_write]
    by_cases h : i = j
    · subst h
      simp [Memory.read_cellsFrom]
    · simp [h]

/-- The |x| writes to BUF_DATA store `x` from BUF_PTR on. -/
theorem run_stores {s : State} (hb : s.busy = false) (ht : s.turns = []) {k : BufId} (hc : s.cap k < 2 ^ 32)
    (x : Bytes) (b : Buffer) (p : Word) (q : List HostOp) (hp : p.toNat + x.length ≤ s.cap k) :
    Host.Core.run core x.length
      (s.atPort k b p ((x.map fun v => wr s.params.base .bufData (v.setWidth 32)) ++ q)) =
      .next (s.atPort k (b.putAll p.toNat x) (p + BitVec.ofNat 32 x.length) q) := by
  induction x generalizing b p with
  | nil => simp [core_run_zero, Buffer.putAll]
  | cons v x ih =>
    rw [List.length_cons] at hp ⊢
    have hnext : (p + 1#32).toNat = p.toNat + 1 := by simp; omega
    have hrest := ih (b.put p.toNat v) (p + 1#32) (by omega)
    rw [hnext, BitVec.add_assoc, ← BitVec.ofNat_add, Nat.add_comm 1] at hrest
    exact core_run_cons _ (step_atPort_store hb ht b v _ (by omega)) hrest

/-- A buffer whose storage begins with `x` and whose LEN is |x| has the content `x` (R33). -/
theorem content_eq_of_read {s : State} {k : BufId} {x : Bytes} (hl : (s.buf k).len = x.length)
    (hr : ∀ i (h : i < x.length), (s.buf k).store.read i = some x[i]) : s.content k = x := by
  refine List.ext_getElem (by simp [hl]) fun i _ h => ?_
  simp [State.content, State.storeByte, hr i h]

/-- Settles O22: the host selects k, sets BUF_PTR to 0, stores `x` byte by byte and sets LEN. -/
theorem loadFillsTheBuffer : Obligations.LoadFillsTheBuffer := by
  intro s k x rest hinv hb ht hx hq
  have hc := cap_lt hinv.params k
  have hlen : (BitVec.ofNat 32 x.length).toNat = x.length := by simp; omega
  refine ⟨s.atPort k { (s.buf k).putAll 0 x with len := x.length } (BitVec.ofNat 32 x.length) rest, ?_, ?_,
    fun i hi => ?_, fun j hj => atPort_buf_other _ _ _ _ _ hj, by simp, by simpa using hlen, by simp, atPort_frame ..⟩
  · have hstores := run_stores hb ht hc x (s.buf k) 0#32 (wr s.params.base .bufLen (BitVec.ofNat 32 x.length) :: rest)
      (by simpa using hx)
    rw [core_run_succ _ (step_selects hb ht (by simpa [load] using hq)), core_run_succ _ (step_atPort_ptr hb ht ..)]
    rw [core_run_add _ 1 hstores, core_run_one (step_atPort_setLen hb ht ..)]
    simp [hlen, hx]
  · refine content_eq_of_read (by simp) fun i h => ?_
    simp [read_putAll, Memory.read_cellsFrom, h]
  · simp [State.storeByte, read_putAll, Memory.read_cellsFrom, Nat.not_lt.2 hi]

/-! ### DUMP -/

/-- The host with the words `l` returned, in that order, after what it had. -/
def State.replyAll (s : State) (l : List Word) : State := { s with replies := l.reverse ++ s.replies }

theorem replyAll_nil (s : State) : s.replyAll [] = s := rfl

theorem reply_replyAll (s : State) (v : Word) (l : List Word) : (s.reply v).replyAll l = s.replyAll (v :: l) := by
  simp [State.replyAll, State.reply]

@[simp] theorem buf_reply (s : State) (v : Word) (k : BufId) : (s.reply v).buf k = s.buf k := by cases k <;> rfl
@[simp] theorem cap_reply (s : State) (v : Word) (k : BufId) : (s.reply v).cap k = s.cap k := by cases k <;> rfl
@[simp] theorem storeByte_reply (s : State) (v : Word) (k : BufId) : (s.reply v).storeByte k = s.storeByte k :=
  funext (storeByte_congr (buf_reply s v k) rfl)

/-- `n` reads of BUF_DATA return the bytes from BUF_PTR on, in order. -/
theorem run_fetches {s : State} (hb : s.busy = false) (ht : s.turns = []) {k : BufId} (hc : s.cap k < 2 ^ 32)
    (n : Nat) (p : Word) (q : List HostOp) (hp : p.toNat + n ≤ s.cap k) :
    Host.Core.run core n (s.atPort k (s.buf k) p (List.replicate n (rd s.params.base .bufData) ++ q)) =
      .next ((s.replyAll ((List.range' p.toNat n).map fun i => (s.storeByte k i).setWidth 32)).atPort k (s.buf k)
        (p + BitVec.ofNat 32 n) q) := by
  induction n generalizing s p with
  | zero => simp [core_run_zero, replyAll_nil]
  | succ n ih =>
    have hnext : (p + 1#32).toNat = p.toNat + 1 := by simp; omega
    have hrest := ih (s := s.reply ((s.storeByte k p.toNat).setWidth 32)) hb ht (by rwa [cap_reply])
      (p + 1#32) (by rw [cap_reply]; omega)
    rw [hnext, storeByte_reply, buf_reply, reply_replyAll, BitVec.add_assoc, ← BitVec.ofNat_add,
      Nat.add_comm 1] at hrest
    exact core_run_cons _ (step_atPort_fetch hb ht _ (by omega)) hrest

/-- LEN[k] reads of BUF_DATA from BUF_PTR = 0 on return the content of buffer k (R33). -/
theorem run_fetches_content {s : State} (hb : s.busy = false) (ht : s.turns = []) {k : BufId} (hc : s.cap k < 2 ^ 32)
    {v : Word} (hv : v.toNat = (s.buf k).len) (hlen : (s.buf k).len ≤ s.cap k) (q : List HostOp) :
    Host.Core.run core v.toNat (s.atPort k (s.buf k) 0#32 (List.replicate v.toNat (rd s.params.base .bufData) ++ q)) =
      .next ((s.replyAll ((s.content k).map fun b => b.setWidth 32)).atPort k (s.buf k) v q) := by
  have hbytes : (List.range' 0 v.toNat).map (fun i => (s.storeByte k i).setWidth 32) =
      (s.content k).map fun b => b.setWidth 32 := by
    simp [State.content, List.range_eq_range', hv]
  rw [run_fetches hb ht hc v.toNat 0#32 q (by simpa [hv] using hlen), BitVec.zero_add, BitVec.ofNat_toNat,
    BitVec.setWidth_eq, BitVec.toNat_ofNat, Nat.zero_mod, hbytes]

/-- After its replies a host at the port has changed nothing but BUF_SEL and BUF_PTR. -/
theorem replyAll_atPort_frame (s : State) (l : List Word) (k : BufId) (p : Word) (q : List HostOp) :
    { (s.replyAll l).atPort k (s.buf k) p q with
        bufSel := s.bufSel, bufPtr := s.bufPtr, hostQueue := s.hostQueue, replies := s.replies } = s := by
  have hbuf : (s.replyAll l).withBuf k (s.buf k) = s.replyAll l := by cases k <;> rfl
  rw [State.atPort, hbuf]
  rfl

/-- Settles O23: LEN, which is at most a legal capacity, is read whole, and counts the reads that follow. -/
theorem dumpReturnsTheBuffer : Obligations.DumpReturnsTheBuffer := by
  intro s k rest hinv hb ht hq
  have hc := cap_lt hinv.params k
  obtain ⟨hlen, -⟩ := hinv.buffers k
  obtain ⟨v, hv⟩ : ∃ v : Word, v = BitVec.ofNat 32 (s.buf k).len := ⟨_, rfl⟩
  have hn : v.toNat = (s.buf k).len := by rw [hv, BitVec.toNat_ofNat]; omega
  rw [← hv, ← hn]
  have hselect := step_selects hb ht hq
  have hget := step_atPort_getLen hb ht k (s.buf k) s.bufPtr
    (wr s.params.base .bufPtr 0#32 :: .readCount (regAddr s.params.base .bufData) :: rest)
  have hptr := step_atPort_ptr (s := s.reply v) hb ht k (s.buf k) s.bufPtr 0#32
    (.readCount (regAddr s.params.base .bufData) :: rest)
  have hcount := step_atPort_count hb ht k (s.buf k) 0#32 v (regAddr s.params.base .bufData) rest
  have hfetch := run_fetches_content (s := s.reply v) hb ht (by rwa [cap_reply]) (by rwa [buf_reply])
    (by rwa [cap_reply, buf_reply]) rest
  rw [← hv] at hget
  rw [content_congr (buf_reply s v k) rfl, buf_reply, reply_replyAll] at hfetch
  refine ⟨_, core_run_cons _ hselect (core_run_cons _ hget (core_run_cons _ hptr (core_run_cons _ hcount hfetch))),
    ?_, rfl, atPort_bufSel .., rfl, replyAll_atPort_frame ..⟩
  simp [State.replyAll]

end Sys2Proof.Machine

namespace Sys2Proof.Machine

/-! ## The busy lockout (R57, R62) -/

/-- From `s` to `t` every operand and result, every buffer, and the command in flight with its code stay. -/
def State.KeepsFlight (s t : State) : Prop :=
  t.operands = s.operands ∧ t.busy = s.busy ∧ t.pending = s.pending ∧ t.err = s.err

section
variable {s : State} (hb : s.busy = true)
include hb

theorem readReg_locked (r : Reg) : readReg r s = lockedRead r s := by
  simp [readReg, hb]

theorem readReg_locked_state (r : Reg) : (readReg r s).2 = s :=
  (readReg_state r s).resolve_right fun ⟨hidle, _⟩ => by simp [hb] at hidle

theorem readReg_locked_zero {r : Reg} (hid : r ≠ .id) (hst : r ≠ .status) : readReg r s = (0#32, s) := by
  rw [readReg_locked hb]
  cases r
  case id => exact absurd rfl hid
  case status => exact absurd rfl hst
  all_goals rfl

/-- A write in lockout that is no reset is dropped, or clears flags of STATUS. -/
theorem writeReg_locked_keepsFlight {r : Reg} {v : Word} (hc : ¬ (r = .ctrl ∧ v.getLsbD 0 = true)) :
    s.KeepsFlight (writeReg r v s) := by
  rw [writeReg_locked hb]
  cases r <;> simp only [lockedWrite, ctrlWrite, cmdWrite, hb]
  case ctrl => rw [if_neg fun h => hc ⟨rfl, h⟩]; exact ⟨rfl, rfl, rfl, rfl⟩
  all_goals exact ⟨rfl, rfl, rfl, rfl⟩

theorem hostRead_locked_keepsFlight (a : Nat) : s.KeepsFlight (hostRead a s) := by
  rw [hostRead, readReg_locked_state hb]
  exact ⟨rfl, rfl, rfl, rfl⟩

theorem hostPoll_locked_keepsFlight (a : Nat) : s.KeepsFlight (hostPoll a s) := by
  simp only [hostPoll, readReg_locked_state hb]
  split <;> exact ⟨rfl, rfl, rfl, rfl⟩

/-- In lockout a host move that is no reset leaves the operands and the command in flight (R62). -/
theorem hostMove_locked_keepsFlight
    (hr : ¬ ∃ a v rest, s.hostQueue = .write a v :: rest ∧ Reg.at s.params.base a = .ctrl ∧ v.getLsbD 0 = true) :
    s.KeepsFlight (hostMove s) := by
  have hbq (q : List HostOp) : (s.withQueue q).busy = true := hb
  rcases hostMove_cases s with ⟨_, e⟩ | ⟨a, rest, _, e⟩ | ⟨a, rest, _, e⟩ | ⟨a, rest, _, e⟩ | ⟨a, v, rest, hq, e⟩ <;>
    rw [e]
  · exact ⟨rfl, rfl, rfl, rfl⟩
  · exact hostRead_locked_keepsFlight (hbq rest) a
  · exact hostPoll_locked_keepsFlight (hbq rest) a
  · exact ⟨rfl, rfl, rfl, rfl⟩
  · exact writeReg_locked_keepsFlight (hbq rest) fun ⟨hctrl, hv⟩ => hr ⟨a, v, rest, hq, hctrl, hv⟩

end

/-- Settles O21: the step is a host move in lockout, and its only reset is the one the hypothesis excludes. -/
theorem lockoutFreezesTheOperands : Obligations.LockoutFreezesTheOperands := by
  intro s t hb hn hr h
  cases (step_host hn).symm.trans h
  obtain ⟨hops, hbusy, hpending, herr⟩ := hostMove_locked_keepsFlight (s := s.takeTurn) hb
    fun hreset => hr (.inr ⟨hn, hreset⟩)
  exact ⟨hops, hbusy.trans hb, hpending, herr⟩

/-- Settles O15: the table is `lockedRead` and `lockedWrite`, and a write that is no reset keeps the flight. -/
theorem busyLockout : Obligations.BusyLockout := by
  intro s hb
  have read := readReg_locked hb
  have write := writeReg_locked hb
  refine ⟨⟨read .id, read .status⟩, fun _ => readReg_locked_zero hb,
    fun v => ⟨write .ctrl v, write .status v, (write .cmd v).trans (if_pos hb)⟩, fun r v hr => ?_, fun r v hr => ?_,
    readReg_locked_state hb, fun r v hc => ?_⟩
  · simp only [List.mem_cons, List.not_mem_nil, or_false] at hr
    obtain rfl | rfl | rfl | rfl | rfl | rfl | rfl | rfl | rfl := hr <;> exact write _ v
  · simp only [List.mem_cons, List.not_mem_nil, or_false] at hr
    obtain rfl | rfl | rfl | rfl := hr <;> exact write _ v
  · have hnoReset : ¬ (r = .ctrl ∧ v.getLsbD 0 = true) := fun ⟨hctrl, hv⟩ =>
      hc.elim (· hctrl) fun hclear => Bool.false_ne_true (hclear.symm.trans hv)
    obtain ⟨hops, hbusy, hpending, -⟩ := writeReg_locked_keepsFlight hb hnoReset
    exact ⟨hops, hbusy.trans hb, hpending⟩

/-! ## Whose turn it is (R61, R88, R230; log 4) -/

theorem nextTurn_of_cons {s : State} {t : Turn} {rest : List Turn} (h : s.turns = t :: rest) : s.nextTurn = t := by
  simp only [State.nextTurn, h]

theorem nextTurn_of_nil {s : State} (h : s.turns = []) : s.nextTurn = if s.busy then .engine else .host := by
  simp only [State.nextTurn, h]

/-- Settles O7: one lemma for each kind of turn, and one for each form of `turns`. -/
theorem stepOfEachTurn : Obligations.StepOfEachTurn := fun s =>
  ⟨step_host, fun hn hb => step_engine_idle hb hn, step_reset,
    fun t rest h => ⟨nextTurn_of_cons h, by rw [takeTurn_turns, h, List.tail_cons]⟩,
    fun h => ⟨nextTurn_of_nil h, takeTurn_of_nil h⟩⟩

/-! ## The address decode (R50, R51) -/

/-- The slot of an access is its offset in words, mod 16. -/
theorem Reg.at_base_add (base off : Nat) : Reg.at base (base + off) = Reg.ofSlot (off / 4 % 16) := by
  have hslot : (((base + off : Nat) : Int) - base) % 64 = (off % 64 : Nat) := by omega
  rw [Reg.at, hslot, Int.toNat_natCast]
  congr 1
  omega

theorem Reg.ofSlot_offset (r : Reg) : Reg.ofSlot (Reg.offset r / 4) = r := by cases r <;> rfl

theorem Reg.offset_aligned_lt (r : Reg) : Reg.offset r % 4 = 0 ∧ Reg.offset r < 64 := by cases r <;> decide

/-- Settles O13: a low part below 4 does not change the offset in words. -/
theorem addressDecodeIgnoresTheLowBits : Obligations.AddressDecodeIgnoresTheLowBits := by
  refine ⟨fun base off => ?_, fun base low r hlow => ?_⟩
  · have hslot : off / 4 % 16 * 4 / 4 % 16 = off / 4 % 16 := by omega
    rw [Reg.at_base_add, Reg.at_base_add, hslot]
  · obtain ⟨haligned, hlt⟩ := Reg.offset_aligned_lt r
    have hslot : (Reg.offset r + low) / 4 % 16 = Reg.offset r / 4 := by omega
    rw [Nat.add_assoc, Reg.at_base_add, hslot, Reg.ofSlot_offset]

end Sys2Proof.Machine

namespace Sys2Proof

/-! ## Decoding through the fields of a word (30_encoding.md R80 to R85) -/

/-- The three forms of a row of R83, by the operand fields its operation uses (R81, R82). -/
inductive RowForm (f : CommandFields) : Prop
  | plain (i : Instr) (hs : f.usesSrc = false) (hd : f.usesDst = false) (hrow : decodeRow f = decodePlain i f)
      (hi : i.fields = ⟨f.opc, 0#4, 0#4, 0#16⟩)
  | source (i : BufId → Instr) (hs : f.usesSrc = true) (hd : f.usesDst = false) (hrow : decodeRow f = decodeSource i f)
      (hi : ∀ s, (i s).fields = ⟨f.opc, s.field, 0#4, 0#16⟩)
  | transform (i : BufId → BufId → Instr) (hs : f.usesSrc = true) (hd : f.usesDst = true)
      (hrow : decodeRow f = decodeTransform i f) (hi : ∀ d s, (i d s).fields = ⟨f.opc, s.field, d.field, 0#16⟩)

theorem CommandFields.opc_of_known {f : CommandFields} (h : f.opcodeKnown = true) :
    f.opc = 0#8 ∨ f.opc = 1#8 ∨ f.opc = 2#8 ∨ f.opc = 3#8 ∨ f.opc = 4#8 ∨ f.opc = 5#8 ∨ f.opc = 6#8 ∨
    f.opc = 7#8 := by
  have hle : f.opc.toNat ≤ 7 := of_decide_eq_true h
  simp only [BitVec.toNat_eq, BitVec.toNat_ofNat]
  omega

/-- A known OPC selects a row of one of the three forms (R82, R83). -/
theorem rowForm_of_known {f : CommandFields} (h : f.opcodeKnown = true) : RowForm f := by
  obtain ⟨opc, src, dst, rsv⟩ := f
  obtain rfl | rfl | rfl | rfl | rfl | rfl | rfl | rfl := CommandFields.opc_of_known h
  · exact .plain .nop rfl rfl rfl rfl
  · exact .plain .setmk rfl rfl rfl rfl
  · exact .transform .esc rfl rfl rfl fun _ _ => rfl
  · exact .transform .unesc rfl rfl rfl fun _ _ => rfl
  · exact .source .crc rfl rfl rfl fun _ => rfl
  · exact .plain .enc rfl rfl rfl rfl
  · exact .plain .dec rfl rfl rfl rfl
  · exact .plain .val rfl rfl rfl rfl

theorem BufId.ofField_above {f : BitVec 4} (h : ¬ f.toNat ≤ 4) : BufId.ofField f = .error .bufferId := by
  rcases BufId.ofField_cases f with ⟨hle, _⟩ | ⟨_, e⟩
  · exact absurd hle h
  · exact e

theorem BufId.ofField_named {f : BitVec 4} (h : f.toNat ≤ 4) : ∃ k : BufId, f = k.field ∧ BufId.ofField f = .ok k := by
  rcases BufId.ofField_cases f with ⟨_, hk⟩ | ⟨hge, _⟩
  · exact hk
  · omega

/-- The third check of R85. -/
theorem decodeRow_unusedField {f : CommandFields} (hk : f.opcodeKnown = true) (hu : f.unusedZero = false) :
    decodeRow f = .error .unusedField := by
  cases rowForm_of_known hk with
  | plain i hs hd hrow =>
    rw [hrow, decodePlain, if_neg (by simpa [CommandFields.unusedZero, hs, hd] using hu)]
  | source i hs hd hrow =>
    rw [hrow, decodeSource, if_neg (by simpa [CommandFields.unusedZero, hs, hd] using hu)]
  | transform i hs hd => simp [CommandFields.unusedZero, hs, hd] at hu

/-- The fourth check of R85. -/
theorem decodeRow_bufferId {f : CommandFields} (hk : f.opcodeKnown = true) (hu : f.unusedZero = true)
    (hb : f.buffersNamed = false) : decodeRow f = .error .bufferId := by
  cases rowForm_of_known hk with
  | plain i hs hd => simp [CommandFields.buffersNamed, hs, hd] at hb
  | source i hs hd hrow =>
    have hdst : f.dst = 0#4 := by simpa [CommandFields.unusedZero, hs, hd] using hu
    have hsrc : ¬ f.src.toNat ≤ 4 := by simpa [CommandFields.buffersNamed, hs, hd] using hb
    rw [hrow, decodeSource, if_pos hdst, BufId.ofField_above hsrc, Except.map]
  | transform i hs hd hrow =>
    rw [hrow, decodeTransform]
    by_cases hdst : f.dst.toNat ≤ 4
    · obtain ⟨d, -, ed⟩ := BufId.ofField_named hdst
      have hsrc : ¬ f.src.toNat ≤ 4 := by simpa [CommandFields.buffersNamed, hs, hd, hdst] using hb
      rw [ed, BufId.ofField_above hsrc]
    · rw [BufId.ofField_above hdst]

theorem CommandFields.eq_of_operands {f : CommandFields} {s d : BitVec 4} (hs : f.src = s) (hd : f.dst = d)
    (hr : f.rsv = 0#16) : (⟨f.opc, s, d, 0#16⟩ : CommandFields) = f := by
  rw [← hs, ← hd, ← hr]

/-- Operand fields that pass the third and the fourth check give a command of those fields. -/
theorem decodeRow_ok {f : CommandFields} (hk : f.opcodeKnown = true) (hr : f.rsv = 0#16) (hu : f.unusedZero = true)
    (hb : f.buffersNamed = true) : ∃ i, decodeRow f = .ok i ∧ i.fields = f := by
  cases rowForm_of_known hk with
  | plain i hs hd hrow hi =>
    obtain ⟨hsrc, hdst⟩ : f.src = 0#4 ∧ f.dst = 0#4 := by simpa [CommandFields.unusedZero, hs, hd] using hu
    exact ⟨i, hrow.trans (if_pos ⟨hsrc, hdst⟩), hi.trans (CommandFields.eq_of_operands hsrc hdst hr)⟩
  | source i hs hd hrow hi =>
    have hdst : f.dst = 0#4 := by simpa [CommandFields.unusedZero, hs, hd] using hu
    obtain ⟨k, hsrc, ek⟩ := BufId.ofField_named (f := f.src) (by simpa [CommandFields.buffersNamed, hs, hd] using hb)
    exact ⟨i k, by rw [hrow, decodeSource, if_pos hdst, ek, Except.map],
      (hi k).trans (CommandFields.eq_of_operands hsrc hdst hr)⟩
  | transform i hs hd hrow hi =>
    obtain ⟨hs4, hd4⟩ : f.src.toNat ≤ 4 ∧ f.dst.toNat ≤ 4 := by simpa [CommandFields.buffersNamed, hs, hd] using hb
    obtain ⟨k, hsrc, ek⟩ := BufId.ofField_named hs4
    obtain ⟨d, hdst, ed⟩ := BufId.ofField_named hd4
    exact ⟨i d k, by rw [hrow, decodeTransform, ed, ek], (hi d k).trans (CommandFields.eq_of_operands hsrc hdst hr)⟩

section
variable {w : Word}

/-- The first check of R85. -/
theorem decode_unknownOpcode (h : (fieldsOf w).opcodeKnown = false) : decode w = .error .unknownOpcode :=
  if_neg (of_decide_eq_false h)

/-- The second check of R85. -/
theorem decode_reservedBits (hk : (fieldsOf w).opcodeKnown = true) (hr : (fieldsOf w).reservedZero = false) :
    decode w = .error .reservedBits :=
  (if_pos (of_decide_eq_true hk)).trans (if_neg (ne_of_beq_false hr))

/-- Past the first two checks of R85, the row decides. -/
theorem decode_row (hk : (fieldsOf w).opcodeKnown = true) (hr : (fieldsOf w).reservedZero = true) :
    decode w = decodeRow (fieldsOf w) :=
  (if_pos (of_decide_eq_true hk)).trans (if_pos (eq_of_beq hr))

/-- A word with well-formed fields decodes, and it is the encoding of its command (R83, R85). -/
theorem decode_of_wellFormed (h : (fieldsOf w).wellFormed = true) : ∃ i, decode w = .ok i ∧ encode i = w := by
  simp only [CommandFields.wellFormed, Bool.and_eq_true] at h
  obtain ⟨⟨⟨hk, hr⟩, hu⟩, hb⟩ := h
  obtain ⟨i, hi, hf⟩ := decodeRow_ok hk (eq_of_beq hr) hu hb
  exact ⟨i, (decode_row hk hr).trans hi, by rw [encode, hf, wordOf_fieldsOf]⟩

/-- A word with ill-formed fields is rejected (R84, R85). -/
theorem decode_of_illFormed (h : (fieldsOf w).wellFormed = false) : ∃ e, decode w = .error e := by
  cases hk : (fieldsOf w).opcodeKnown
  · exact ⟨_, decode_unknownOpcode hk⟩
  cases hr : (fieldsOf w).reservedZero
  · exact ⟨_, decode_reservedBits hk hr⟩
  cases hu : (fieldsOf w).unusedZero
  · exact ⟨_, (decode_row hk hr).trans (decodeRow_unusedField hk hu)⟩
  cases hb : (fieldsOf w).buffersNamed
  · exact ⟨_, (decode_row hk hr).trans (decodeRow_bufferId hk hu hb)⟩
  simp [CommandFields.wellFormed, hk, hr, hu, hb] at h

/-- A word that decodes has well-formed fields, and it is the encoding of the command it decodes to. -/
theorem wellFormed_and_encode_of_decode {i : Instr} (h : decode w = .ok i) :
    (fieldsOf w).wellFormed = true ∧ encode i = w := by
  cases hw : (fieldsOf w).wellFormed
  · obtain ⟨e, he⟩ := decode_of_illFormed hw
    cases he.symm.trans h
  · obtain ⟨j, hj, hw'⟩ := decode_of_wellFormed hw
    cases hj.symm.trans h
    exact ⟨rfl, hw'⟩

end

theorem decode_encode (i : Instr) : decode (encode i) = .ok i := by
  simp only [decode, encode, fieldsOf_wordOf]
  cases i <;> simp [Instr.fields, Instr.opcode, decodeRow, decodePlain, decodeSource, decodeTransform, Except.map]

/-- Settles O2: the fields of an encoding are those of its command, and the fields of a word that decodes are those of the
command it decodes to. -/
theorem decodeAndEncodeAreInverse : Obligations.DecodeAndEncodeAreInverse := by
  refine fun w i => ⟨fun h => (wellFormed_and_encode_of_decode h).2, ?_⟩
  rintro rfl
  exact decode_encode i

/-! ### The table of R83 -/

/-- Settles O1: each word is decoded by evaluation. -/
theorem wordsOfTheTableDecode : Obligations.WordsOfTheTableDecode := by
  unfold Obligations.WordsOfTheTableDecode
  decide

/-- Every command's word is covered by its row of the table, and its fields are well formed (R83). -/
theorem encoding_statement (i : Instr) : Laws.Encoding.Statement i := by
  cases i with
  | nop => exact Laws.Encoding.nop
  | setmk => exact Laws.Encoding.setmk
  | esc d s => exact Laws.Encoding.esc d s
  | unesc d s => exact Laws.Encoding.unesc d s
  | crc s => exact Laws.Encoding.crc s
  | enc => exact Laws.Encoding.enc
  | dec => exact Laws.Encoding.dec
  | val => exact Laws.Encoding.val

/-- The bits of OPC in a row's match. -/
def OpcodeRow.opc (r : OpcodeRow) : BitVec 8 := r.matchBits.extractLsb' 0 8

/-- Every row of the table fixes all bits of OPC. -/
theorem opc_of_covers {r : OpcodeRow} {w : Word} (hr : r ∈ opcodeRows) (h : r.covers w = true) :
    w.extractLsb' 0 8 = r.opc := by
  have hmask : ∀ q ∈ opcodeRows, q.mask.extractLsb' 0 8 = BitVec.allOnes 8 := by decide
  have hmatch : w &&& r.mask = r.matchBits := eq_of_beq h
  rw [OpcodeRow.opc, ← hmatch, BitVec.extractLsb'_and, hmask r hr, BitVec.and_allOnes]

/-- No two rows of the table have one OPC. -/
theorem opcodeRow_eq_of_opc : ∀ r ∈ opcodeRows, ∀ q ∈ opcodeRows, r.opc = q.opc → r = q := by decide

/-- Settles O3: a well-formed word is the encoding of its command, rows differ in OPC, and each check is its own lemma. -/
theorem decodingIsTotalInTheOrderOfItsChecks : Obligations.DecodingIsTotalInTheOrderOfItsChecks := by
  refine ⟨fun w => ?_, fun w r q hr hq hrw hqw => ?_, fun w => decode_unknownOpcode, fun w => decode_reservedBits,
    fun w hk hr hu => (decode_row hk hr).trans (decodeRow_unusedField hk hu),
    fun w hk hr hu hb => (decode_row hk hr).trans (decodeRow_bufferId hk hu hb)⟩
  · cases hw : (fieldsOf w).wellFormed
    · exact .inr ((decode_of_illFormed hw).imp fun _ he => ⟨he, rfl⟩)
    · obtain ⟨i, hi, rfl⟩ := decode_of_wellFormed hw
      obtain ⟨hcovers, hmem, -⟩ := encoding_statement i
      exact .inl ⟨i, hi, hmem, hcovers, rfl⟩
  · exact opcodeRow_eq_of_opc r hr q hq ((opc_of_covers hr hrw).symm.trans (opc_of_covers hq hqw))

/-- The four conditions of R84, on the values of the fields. -/
theorem CommandFields.wellFormed_eq_false_iff (f : CommandFields) : f.wellFormed = false ↔
    8 ≤ f.opc.toNat ∨ f.rsv ≠ 0#16 ∨ (f.opc.toNat ∈ [0, 1, 5, 6, 7] ∧ (f.src ≠ 0#4 ∨ f.dst ≠ 0#4)) ∨
    (f.opc.toNat = 4 ∧ f.dst ≠ 0#4) ∨ (f.opc.toNat ∈ [2, 3, 4] ∧ 5 ≤ f.src.toNat) ∨
    (f.opc.toNat ∈ [2, 3] ∧ 5 ≤ f.dst.toNat) := by
  rw [← Bool.not_eq_true]
  simp only [wellFormed, opcodeKnown, reservedZero, unusedZero, buffersNamed, usesSrc, usesDst, Bool.and_eq_true,
    Bool.or_eq_true, Bool.not_eq_true', Bool.or_eq_false_iff, beq_iff_eq, beq_eq_false_iff_ne, decide_eq_true_eq,
    List.mem_cons, List.not_mem_nil, or_false, ne_eq, BitVec.toNat_eq, BitVec.toNat_ofNat]
  omega

end Sys2Proof

namespace Sys2Proof.Machine

/-! ## Accepting a word, and an illegal one (R84, R87) -/

/-- A word that does not decode completes with code 11 and nothing else (R84). -/
theorem runPending_of_error {s : State} {e : DecodeError} (h : decode s.pending = .error e) :
    runPending s = .next (s.finish .illegalCommandError) := by
  rw [runPending, h]; rfl

/-- A CMD write with nothing in flight is an accept, whatever the word (R87). -/
theorem writeReg_cmd_idle {s : State} (hb : s.busy = false) (w : Word) : writeReg .cmd w s = s.accept w :=
  (writeReg_idle hb .cmd w).trans (if_neg (by simp [hb]))

/-- A CMD write with a command in flight sets OVR only (R57, R87). -/
theorem writeReg_cmd_busy {s : State} (hb : s.busy = true) (w : Word) : writeReg .cmd w s = s.setOvr :=
  (writeReg_locked hb .cmd w).trans (if_pos hb)

/-- Settles O4: a word with ill-formed fields does not decode, and then the completion is `execIllegal`. -/
theorem illegalWordCompletesWithCodeEleven : Obligations.IllegalWordCompletesWithCodeEleven := by
  refine ⟨fun w => (fieldsOf w).wellFormed_eq_false_iff, fun s w hb => writeReg_cmd_idle hb w, fun s h => ?_, rfl⟩
  obtain ⟨e, he⟩ := decode_of_illFormed h
  exact runPending_of_error he

/-- Settles O10: CMD answers at its own offset, and a write to it is one of the two cases of R87. -/
theorem cmdWriteIsAcceptedOrDropped : Obligations.CmdWriteIsAcceptedOrDropped :=
  ⟨fun base => Reg.at_regAddr base .cmd, fun _ w => ⟨fun hb => writeReg_cmd_busy hb w, fun hb => writeReg_cmd_idle hb w⟩⟩

/-! ## The assembler (R89) -/

@[simp] theorem bufOfName_bufName (k : BufId) : bufOfName? (bufName k) = some k := by cases k <;> rfl

theorem parseLine_tokens (i : Instr) : parseLine (Instr.tokens i) = some i := by
  cases i <;> simp [Instr.tokens, parseLine]

theorem fields_opc (i : Instr) : i.fields.opc = i.opcode := by cases i <;> rfl

theorem fields_rsv (i : Instr) : i.fields.rsv = 0#16 := by cases i <;> rfl

theorem toNat_field (k : BufId) : k.field.toNat = k.num := by cases k <;> rfl

/-- Settles O5: a line's words name its command back, and the fields of a command are its operands' numbers. -/
theorem assembledLineIsTheCommandWord : Obligations.AssembledLineIsTheCommandWord := by
  refine ⟨fun i => by rw [assemble, parseLine_tokens, Option.map_some],
    fun i => by rw [encode, wordOf, fields_rsv, fields_opc], fun d s => ?_, rfl⟩
  have hd := toNat_field d
  have hs := toNat_field s
  exact ⟨hd, hs, hd, hs, hs⟩

/-! ## The engine's turn (R88) -/

/-- On the engine's turn a command in flight is completed. -/
theorem step_completes {s : State} (hb : s.busy = true) (hn : s.nextTurn = .engine) : step s = runPending s.takeTurn :=
  (step_engine hn).trans (if_pos hb)

theorem decode_of_decodeTableWord {n w : Nat} {i : Instr} (h : decodeTableWord n w = some i) :
    decode (BitVec.ofNat 32 (w % 2 ^ n)) = .ok i := by
  simp only [decodeTableWord] at h
  split at h
  · split at h
    · rename_i hi; cases h; exact hi
    · cases h
  · cases h

/-- Settles O6: a word put in flight by `withFetchWord` has the engine's turn before those already given. -/
theorem stepRunsThePendingCommand : Obligations.StepRunsThePendingCommand := by
  refine ⟨fun s i hb hn hi => ?_, fun s => step_completes, fun s n w i h => ?_⟩
  · exact (step_completes hb hn).trans (runPending_of_decode hi)
  · exact (step_completes (s := s.withFetchWord n w) rfl rfl).trans
      (runPending_of_decode (decode_of_decodeTableWord h))

/-! ## How a command ends (R88, R200, R201) -/

theorem ok_mem_codesOf (i : Instr) : .ok ∈ codesOf i := by cases i <;> simp [codesOf]

theorem illegalCommandError_notMem_codesOf (i : Instr) : .illegalCommandError ∉ codesOf i := by
  cases i <;> simp [codesOf]

/-- A command ends with a code of its own rule (R200). -/
theorem err_mem_codesOf {i : Instr} {s t : State} (h : exec i s = .next t) : t.err ∈ codesOf i := by
  rcases exec_cases i s with ⟨c, _, hc, e⟩ | ⟨u, _, e⟩ <;> cases e.symm.trans h
  · exact hc
  · exact ok_mem_codesOf i

/-- Settles O9: an error writes STATUS only, and what a command commits leaves the rest (`Commits.frame`). -/
theorem everyCommandEndsItsFlight : Obligations.EveryCommandEndsItsFlight := by
  intro i s
  rcases exec_cases i s with ⟨c, _, _, e⟩ | ⟨u, hu, e⟩
  · exact ⟨_, e, rfl, rfl, rfl, rfl, rfl, rfl, rfl⟩
  · obtain ⟨-, -, -, -, hovr, hhaz, -, -, hqueue, hturns, hreplies⟩ := hu.frame
    exact ⟨_, e, rfl, rfl, hovr, hhaz, hqueue, hturns, hreplies⟩

/-- Settles O52: IllegalCommandError is in no command's rule, so only a word that does not decode ends with it. -/
theorem statusCodesOfEachCommand : Obligations.StatusCodesOfEachCommand := by
  refine ⟨by decide, fun c => by cases c <;> decide, fun i s t => err_mem_codesOf, fun s t h => ?_⟩
  cases hd : decode s.pending with
  | ok i =>
    have herr := err_mem_codesOf ((runPending_of_decode hd).symm.trans h)
    refine iff_of_false (fun e => illegalCommandError_notMem_codesOf i (e ▸ herr)) ?_
    rintro ⟨_, e⟩
    cases e
  | error e =>
    cases (runPending_of_error hd).symm.trans h
    exact iff_of_true rfl ⟨e, rfl⟩

/-- Settles O53: outputs are committed with code 0 only, and any other code writes STATUS only. -/
theorem errorCommitsNothing : Obligations.ErrorCommitsNothing := by
  refine ⟨fun s t h hne => ?_, fun i s t h hne => ?_⟩
  · rcases runPending_cases s with ⟨c, _, e⟩ | ⟨i, u, _, _, e⟩ <;> cases e.symm.trans h
    · rfl
    · exact absurd rfl hne
  · rcases exec_cases i s with ⟨c, _, _, e⟩ | ⟨u, _, e⟩ <;> cases e.symm.trans h
    · rfl
    · exact absurd rfl hne

/-! ## The end of a flight (R88, R240; log 4) -/

theorem State.ChangesOnlyBuffers.turns_eq {s t : State} (h : s.ChangesOnlyBuffers t) : t.turns = s.turns := by
  rw [← h]

theorem readReg_turns (r : Reg) (s : State) : (readReg r s).2.turns = s.turns := by
  rcases readReg_state r s with e | ⟨_, _, e⟩ <;> rw [e]
  rfl

theorem WriteEffect.turns_eq {s t : State} (h : WriteEffect s t) : t.turns = s.turns := by
  cases h with
  | bufLen v => exact (changesOnlyBuffers_bufLenWrite v s).turns_eq
  | bufData v => exact (changesOnlyBuffers_bufDataWrite v s).turns_eq
  | _ => rfl

/-- A host move gives and takes no turns. -/
theorem hostMove_turns (s : State) : (hostMove s).turns = s.turns := by
  rcases hostMove_cases s with ⟨_, e⟩ | ⟨a, rest, _, e⟩ | ⟨a, rest, _, e⟩ | ⟨a, rest, _, e⟩ | ⟨a, v, rest, _, e⟩ <;>
    rw [e]
  · exact readReg_turns _ (s.withQueue rest)
  · simp only [hostPoll]
    split <;> exact readReg_turns _ (s.withQueue rest)
  · rfl
  · exact (writeReg_effect _ v (s.withQueue rest)).turns_eq

/-- On the engine's turn the flight of a command ends. -/
theorem step_completes_ends {s : State} (hb : s.busy = true) (hn : s.nextTurn = .engine) :
    ∃ t, step s = .next t ∧ t.busy = false := by
  obtain ⟨t, ht, hidle, -⟩ := runPending_ends s.takeTurn
  exact ⟨t, (step_completes hb hn).trans ht, hidle⟩

/-- Settles O11: by induction on the turns given. A turn of the engine or a reset ends the flight, a turn of the host leaves
fewer turns, and without turns the engine moves. -/
theorem commandInFlightEnds : Obligations.CommandInFlightEnds := by
  intro s hb
  induction hturns : s.turns generalizing s with
  | nil =>
    obtain ⟨t, ht, hidle⟩ := step_completes_ends hb (by rw [nextTurn_of_nil hturns, if_pos hb])
    exact ⟨1, t, le_rfl, core_run_one ht, hidle⟩
  | cons turn rest ih =>
    have hn := nextTurn_of_cons hturns
    cases turn with
    | engine =>
      obtain ⟨t, ht, hidle⟩ := step_completes_ends hb hn
      exact ⟨1, t, by simp, core_run_one ht, hidle⟩
    | reset => exact ⟨1, _, by simp, core_run_one (step_reset hn), rfl⟩
    | host =>
      cases hidle : (hostMove s.takeTurn).busy with
      | false => exact ⟨1, _, by simp, core_run_one (step_host hn), hidle⟩
      | true =>
        have hrest : (hostMove s.takeTurn).turns = rest := by rw [hostMove_turns, takeTurn_turns, hturns, List.tail_cons]
        obtain ⟨n, t, hle, hrun, ht⟩ := ih _ hidle hrest
        exact ⟨n + 1, t, Nat.succ_le_succ hle, core_run_cons n (step_host hn) hrun, ht⟩

/-! ## RUN (R91; log 4, log 5) -/

/-- A write of a word to CMD with nothing in flight issues it (R87, R90). -/
theorem step_issueWord {s : State} {w : Word} {rest : List HostOp} (hb : s.busy = false) (ht : s.turns = [])
    (hq : s.hostQueue = wr s.params.base .cmd w :: rest) : step s = .next ((s.withQueue rest).accept w) :=
  (step_wr hb ht hq).trans (congrArg _ (if_neg (by simp [hb])))

/-- A POLL of STATUS with nothing in flight reads it once (R91). -/
theorem step_pollStatus {s : State} {rest : List HostOp} (hb : s.busy = false) (ht : s.turns = [])
    (hq : s.hostQueue = pollStatus s.params.base :: rest) : step s = .next ((s.withQueue rest).reply s.statusWord) := by
  have hread : readReg (Reg.at s.params.base (regAddr s.params.base .status)) (s.withQueue rest) =
      (s.statusWord, s.withQueue rest) := by rw [Reg.at_regAddr]; exact readReg_status _
  rw [step_idle hb ht hq]
  simp only [hostDo, pollStatus, hostPoll, withQueue_params, hread, statusWord_bit0, hb, Bool.false_eq_true, if_false]

/-- Settles O12: the completion leaves the host's side as the issue left it, so the third step is the POLL. -/
theorem runIssuesCompletesAndPolls : Obligations.RunIssuesCompletesAndPolls := by
  intro s w rest hb ht hq
  have hissue := step_issueWord (rest := pollStatus s.params.base :: rest) hb ht hq
  obtain ⟨t, hrun, hidle, -, hparams, -, hqueue, hturns, hreplies⟩ :=
    runPending_ends ((s.withQueue (pollStatus s.params.base :: rest)).accept w)
  have hcomplete := (step_busy (accept_busy (s.withQueue (pollStatus s.params.base :: rest)) w) ht).trans hrun
  have hpoll := step_pollStatus (rest := rest) hidle (hturns.trans ht) (by rw [hqueue, hparams]; rfl)
  refine ⟨t, hrun, core_run_cons 2 hissue (core_run_cons 1 hcomplete (core_run_one ?_))⟩
  rw [hpoll, State.reply, withQueue_replies, hreplies]
  rfl

end Sys2Proof.Machine

namespace Sys2Proof.Machine

/-! ## NOP (R100) -/

/-- The OPC bits of a command's word are its operation (R80, R89). -/
theorem opc_encode (i : Instr) : (encode i).extractLsb' 0 8 = i.opcode :=
  (congrArg CommandFields.opc (fieldsOf_wordOf i.fields)).trans (fields_opc i)

theorem eq_nop_of_opcode_zero {i : Instr} (h : i.opcode = 0x00#8) : i = .nop := by
  cases i with
  | nop => rfl
  | _ => simp [Instr.opcode] at h

/-- OPC 0 is NOP's, and NOP's only word is 0 (R83, R84). -/
theorem decode_error_of_opc_zero {w : Word} (hopc : w.extractLsb' 0 8 = 0x00#8) (hw : w ≠ encode .nop) :
    ∃ e, decode w = .error e := by
  cases hd : decode w with
  | error e => exact ⟨e, rfl⟩
  | ok i =>
    obtain ⟨-, rfl⟩ := wellFormed_and_encode_of_decode hd
    exact absurd (congrArg encode (eq_nop_of_opcode_zero ((opc_encode i).symm.trans hopc))) hw

/-- Settles O24: of the words with OPC 0 only NOP's own decodes. -/
theorem nopOnlyReportsOk : Obligations.NopOnlyReportsOk := by
  refine ⟨rfl, fun s => rfl, fun s t h ho hh hm => ?_, fun s hopc hw => ?_⟩
  · obtain rfl : s.finish .ok = t := by injection h
    simp only [State.statusWord, finish_err, finish_mkv, finish_haz, finish_ovr, finish_done, finish_busy, ho, hh, hm]
    rfl
  · obtain ⟨e, he⟩ := decode_error_of_opc_zero hopc hw
    exact runPending_of_error he

/-! ## SETMK (R101) -/

/-- `v` is what ARG0 holds, and it may become the marker (R101). -/
def State.Offers (s : State) (v : Byte) : Prop := s.content .arg0 = [v] ∧ 32 ≤ v.toNat ∧ v.toNat ≤ 126

theorem execSetmk_of_offers {s : State} {v : Byte} (h : s.Offers v) :
    execSetmk s = .next ((s.setMarker v).finish .ok) := by
  obtain ⟨hv, lo, hi⟩ := h
  simp only [execSetmk, hv, Config.markMin, Config.markMax]
  exact if_neg (by omega)

theorem execSetmk_of_not_offers {s : State} (h : ∀ v, ¬ s.Offers v) : execSetmk s = .next (s.finish .configError) := by
  rcases exec_cases .setmk s with ⟨c, hne, hc, e⟩ | ⟨u, hu, -⟩
  · have hcode : c = .ok ∨ c = .configError := by simpa [codesOf] using hc
    exact hcode.resolve_left hne ▸ e
  · cases hu with
    | setmk v hv lo hi => exact absurd ⟨hv, lo, hi⟩ (h v)

/-- Settles O25: SETMK by whether ARG0 offers a marker, and what the other commands commit leaves MKV. -/
theorem setmkSetsTheMarker : Obligations.SetmkSetsTheMarker := by
  refine ⟨rfl, fun s v hv lo hi => execSetmk_of_offers ⟨hv, lo, hi⟩, fun s hl => execSetmk_of_not_offers ?_,
    fun s v hv hr => execSetmk_of_not_offers ?_, fun i s t h hs ht => ?_⟩
  · rintro v ⟨hv, -⟩
    exact hl (congrArg List.length hv)
  · rintro u ⟨hu, lo, hi⟩
    cases hv.symm.trans hu
    omega
  · by_contra hi
    rcases exec_cases i s with ⟨c, _, _, e⟩ | ⟨u, hu, e⟩ <;> cases e.symm.trans h
    · exact absurd (hs.symm.trans ht) (by decide)
    · exact absurd ((hu.marker_of_ne_setmk hi).2.symm.trans ht) (by simp [hs])

/-! ## Who reads the marker (R103, R233) -/

/-- `s` with another marker configuration. -/
def State.withMarker (s : State) (m : Byte) (b : Bool) : State := { s with marker := m, mkv := b }

section
variable (m : Byte) (b : Bool)

theorem content_withMarker (s : State) (k : BufId) : (s.withMarker m b).content k = s.content k :=
  content_congr (by cases k <;> rfl) rfl

theorem cap_withMarker (s : State) (k : BufId) : (s.withMarker m b).cap k = s.cap k := by cases k <;> rfl

theorem setBuf_withMarker (s : State) (k : BufId) (x : Bytes) :
    (s.withMarker m b).setBuf k x = (s.setBuf k x).withMarker m b := by cases k <;> rfl

/-- Storing a result does not read the marker. -/
theorem storeResult_withMarker {s t : State} {k : BufId} {o : Bytes} (h : storeResult k o s = .next t) :
    storeResult k o (s.withMarker m b) = .next (t.withMarker m b) := by
  rcases storeResult_cases k o s with ⟨hc, e⟩ | ⟨hc, e⟩ <;> cases e.symm.trans h <;> rw [← cap_withMarker m b s] at hc
  · exact if_pos hc
  · rw [storeResult_fits hc, setBuf_withMarker]
    rfl

/-- NOP, ESC, UNESC and CRC do not read the marker (R233). -/
theorem exec_withMarker {i : Instr} {s t : State} (hi : i ≠ .setmk) (hf : i ∉ [Instr.enc, .dec, .val])
    (h : exec i s = .next t) : exec i (s.withMarker m b) = .next (t.withMarker m b) := by
  cases i with
  | nop => cases h; rfl
  | setmk => exact absurd rfl hi
  | esc d k | unesc d k =>
    simp only [exec, execEsc, execUnesc, content_withMarker] at h ⊢
    exact storeResult_withMarker m b h
  | crc k =>
    cases h
    simp only [exec, execCrc, content_withMarker]
    rfl
  | enc | dec | val => simp at hf

theorem offers_withMarker (s : State) (v : Byte) : (s.withMarker m b).Offers v ↔ s.Offers v := by
  rw [State.Offers, State.Offers, content_withMarker]

end

/-- ENC, DEC and VAL check the marker first (R103). -/
theorem exec_unmarked {i : Instr} {s : State} (hi : i ∈ [Instr.enc, .dec, .val]) (hm : s.mkv = false) :
    exec i s = .next (s.finish .notConfiguredError) := by
  simp only [List.mem_cons, List.not_mem_nil, or_false] at hi
  obtain rfl | rfl | rfl := hi <;> exact if_pos hm

/-- Settles O27: whether ARG0 offers a marker, and which, does not depend on the configuration SETMK finds. -/
theorem onlyFrameCommandsReadTheMarker : Obligations.OnlyFrameCommandsReadTheMarker := by
  refine ⟨fun i s => exec_unmarked, fun i s t m b => exec_withMarker m b, fun s t m b h => ?_⟩
  by_cases hv : ∃ v, s.Offers v
  · obtain ⟨v, hv⟩ := hv
    cases (execSetmk_of_offers hv).symm.trans h
    exact ⟨_, execSetmk_of_offers ((offers_withMarker m b s v).2 hv), rfl, fun _ => rfl, absurd rfl⟩
  · have hno : ∀ v, ¬ s.Offers v := not_exists.1 hv
    cases (execSetmk_of_not_offers hno).symm.trans h
    exact ⟨_, execSetmk_of_not_offers fun v => hno v ∘ (offers_withMarker m b s v).1, rfl, nofun, fun _ => ⟨rfl, rfl⟩⟩

end Sys2Proof.Machine

namespace Sys2Proof.Machine

/-! ## The transform along its scan (R110, R112, R113) -/

/-- The loop's test for a match at `i` (R110) is that `S` stands next. -/
theorem loopTest_iff_prefix {S : Bytes} (hS : S ≠ []) (d : Bytes) (i : Nat) :
    (i + S.length ≤ d.length ∧ (d.drop i).take S.length = S) ↔ S <+: d.drop i := by
  refine ⟨fun ⟨_, h⟩ => h ▸ List.take_prefix _ _, fun h => ⟨?_, (List.prefix_iff_eq_take.1 h).symm⟩⟩
  have hpos := List.length_pos_of_ne_nil hS
  have hle := h.length_le
  rw [List.length_drop] at hle
  omega

section
variable {S R : Bytes} (hS : S ≠ []) (hR : R ≠ [])
include hS hR

/-- The loop of R110 from index `i` appends the transform of the rest, once it has a round for each remaining byte. -/
theorem escapeLoop_eq_append_escape {d : Bytes} {fuel i : Nat} (hf : d.length ≤ i + fuel) (o : Bytes) :
    escapeLoop d S R fuel i o = o ++ escape (d.drop i) S R := by
  induction fuel generalizing i o with
  | zero => rw [List.drop_of_length_le (i := i) hf, escape_nil, List.append_nil]; rfl
  | succ fuel ih =>
    have hpos := List.length_pos_of_ne_nil hS
    simp only [escapeLoop, loopTest_iff_prefix hS]
    split_ifs with hi hm
    · obtain ⟨rest, hrest⟩ := hm
      have hdrop : d.drop (i + S.length) = rest := by rw [← List.drop_drop, ← hrest, List.drop_left]
      rw [ih (by omega), hdrop, ← hrest, escape_match hS hR, List.append_assoc]
    · rw [List.drop_eq_getElem_cons hi] at hm ⊢
      rw [ih (by omega), escape_step hS hR hm, List.getD_eq_getElem _ _ hi, List.append_assoc, List.singleton_append]
    · rw [List.drop_of_length_le (by omega), escape_nil, List.append_nil]

/-- Each match takes the boundary's bytes out of the data and puts the replacement's in (R112). -/
theorem length_escape_add (d : Bytes) :
    (escape d S R).length + matchCount S 0 d * S.length = d.length + matchCount S 0 d * R.length := by
  induction d using scan_induction hS with
  | nil => rw [escape_nil, matchCount_nil, Nat.zero_mul, Nat.zero_mul]
  | hit d ih =>
    rw [escape_match hS hR, matchCount_match hS, List.length_append, List.length_append]
    linarith
  | miss b d h ih =>
    rw [escape_step hS hR h, matchCount_step h, List.length_cons, List.length_cons]
    omega

/-- Scanning `|S|` bytes of data emits `max |S| |R|` bytes at most (R112). -/
theorem length_escape_mul_le (d : Bytes) : (escape d S R).length * S.length ≤ d.length * max S.length R.length := by
  induction d using scan_induction hS with
  | nil => rw [escape_nil, List.length_nil, Nat.zero_mul, Nat.zero_mul]
  | hit d ih =>
    have hmax := Nat.mul_le_mul_left S.length (Nat.le_max_right S.length R.length)
    rw [escape_match hS hR, List.length_append, List.length_append]
    linarith
  | miss b d h ih =>
    have hmax := Nat.le_max_left S.length R.length
    rw [escape_step hS hR h, List.length_cons, List.length_cons]
    linarith

/-- The length law of R112 in one direction. -/
theorem escape_length_law (d : Bytes) :
    ((escape d S R).length : Int) = d.length + matchCount S 0 d * ((R.length : Int) - S.length) := by
  have h := congrArg (Nat.cast (R := Int)) (length_escape_add hS hR d)
  push_cast at h
  linarith

/-- When R starts with S, a sequence no longer than S that the result starts with is one the data starts with: the two
windows of R113's proof are the same. -/
theorem prefix_of_prefix_escape (hSR : S <+: R) {T d : Bytes} (hT : T.length ≤ S.length) (h : T <+: escape d S R) :
    T <+: d := by
  induction d using scan_induction hS generalizing T with
  | nil => rwa [escape_nil] at h
  | hit d ih =>
    rw [escape_match hS hR] at h
    exact (List.prefix_of_prefix_length_le h (hSR.trans (List.prefix_append R _)) hT).trans (List.prefix_append S d)
  | miss b d hb ih =>
    rw [escape_step hS hR hb] at h
    cases T with
    | nil => exact List.nil_prefix
    | cons t T =>
      obtain ⟨rfl, htail⟩ := List.cons_prefix_cons.1 h
      exact List.cons_prefix_cons.2 ⟨rfl, ih (Nat.le_of_succ_le hT) htail⟩

end

/-- The scan makes no more matches than fit in the data (R112). -/
theorem matchCount_mul_length_le {S : Bytes} (hS : S ≠ []) (d : Bytes) : matchCount S 0 d * S.length ≤ d.length := by
  induction d using scan_induction hS with
  | nil => rw [matchCount_nil, Nat.zero_mul]; exact Nat.zero_le _
  | hit d ih => rw [matchCount_match hS, List.length_append]; linarith
  | miss b d h ih => rw [matchCount_step h]; exact Nat.le_succ_of_le ih

theorem matchCount_le_div {S : Bytes} (hS : S ≠ []) (d : Bytes) : matchCount S 0 d ≤ d.length / S.length :=
  (Nat.le_div_iff_mul_le (List.length_pos_of_ne_nil hS)).2 (matchCount_mul_length_le hS d)

/-- R113: where the forward scan emitted a single byte the backward scan finds no replacement, since one would start with
the boundary. -/
theorem unescape_escape {S R : Bytes} (hS : S ≠ []) (hSR : S <+: R) (P : Bytes) :
    unescape (escape P S R) S R = P := by
  have hR : R ≠ [] := fun e => hS (List.prefix_nil.1 (e ▸ hSR))
  rw [unescape]
  induction P using scan_induction hS with
  | nil => rw [escape_nil, escape_nil]
  | hit d ih => rw [escape_match hS hR, escape_match hR hS, ih]
  | miss b d hb ih =>
    have hmiss : ¬ R <+: escape (b :: d) S R := fun h =>
      hb (prefix_of_prefix_escape hS hR hSR le_rfl (hSR.trans h))
    rw [escape_step hS hR hb] at hmiss ⊢
    rw [escape_step hR hS hmiss, ih]

theorem escape_self (P S : Bytes) : escape P S S = P := by
  by_cases hS : S = []
  · rw [hS, escape_nil_left]
  · induction P using scan_induction hS with
    | nil => exact escape_nil S S
    | hit d ih => rw [escape_match hS hS, ih]
    | miss b d h ih => rw [escape_step hS hS h, ih]

/-- Settles O28: the loop with a round for each byte, and with more, is the transform of the whole data. -/
theorem escapeIsTheLoopOfTheSpec : Obligations.EscapeIsTheLoopOfTheSpec := by
  refine fun d S R => ⟨fun hS hR => ?_, ?_⟩
  · have hloop (n : Nat) : escapeLoop d S R (d.length + n) 0 [] = escape d S R :=
      escapeLoop_eq_append_escape hS hR (by omega) []
    exact ⟨(hloop 0).symm, fun n => (hloop n).trans (hloop 0).symm⟩
  · rintro (rfl | rfl)
    · exact escape_nil_left d R
    · exact escape_nil_right d S

/-- Settles O29: unescape is the transform with the sequences exchanged, so both directions are one law. -/
theorem escapeLength : Obligations.EscapeLength := fun d _ _ hS hR =>
  ⟨escape_length_law hS hR d, matchCount_le_div hS d, length_escape_mul_le hS hR d,
    escape_length_law hR hS d, matchCount_le_div hR d, length_escape_mul_le hR hS d⟩

/-- Settles O30: `unescape_escape`, and R = S where each match is replaced by itself. -/
theorem unescapeInvertsEscapeWhenTheReplacementStartsWithTheBoundary :
    Obligations.UnescapeInvertsEscapeWhenTheReplacementStartsWithTheBoundary :=
  ⟨fun P _ _ hS hSR => unescape_escape hS hSR P, fun P S => ⟨escape_self P S, escape_self P S⟩,
    fun P S hS => unescape_escape hS (List.prefix_append S S) P⟩

/-- Settles O31: the spec's counterexample, evaluated. -/
theorem publishedRoundTripLawFails : Obligations.PublishedRoundTripLawFails := by
  unfold Obligations.PublishedRoundTripLawFails
  decide

/-! ## ESC and UNESC (R116, R117) -/

theorem storeResult_overflows {k : BufId} {o : Bytes} {s : State} (h : s.cap k < o.length) :
    storeResult k o s = .next (s.finish .capacityError) := if_pos h

/-- What ESC and UNESC do with a result that fits. -/
theorem storeResult_completes {k : BufId} {o : Bytes} {s : State} (h : o.length ≤ s.cap k) :
    ∃ t, storeResult k o s = .next t ∧ t.err = .ok ∧ t.content k = o ∧ (t.buf k).len = o.length ∧
      (∀ i, o.length ≤ i → t.storeByte k i = s.storeByte k i) ∧ (∀ j, j ≠ k → t.buf j = s.buf j) :=
  ⟨_, storeResult_fits h, rfl, storeResult_stores h (storeResult_fits h)⟩

/-- Settles O32: ESC stores its result, which is computed from the state before. -/
theorem escStoresTheEscapedSource : Obligations.EscStoresTheEscapedSource := by
  rintro dst src s o rfl
  exact ⟨storeResult_completes, storeResult_overflows⟩

/-- Settles O33: UNESC stores its result, which is computed from the state before. -/
theorem unescStoresTheUnescapedSource : Obligations.UnescStoresTheUnescapedSource := by
  rintro dst src s o rfl
  exact ⟨storeResult_completes, storeResult_overflows⟩

end Sys2Proof.Machine

namespace Sys2Proof.Machine

/-! ## The checksum (R130, R131, R133) -/

/-- A round shifts, and adds the polynomial when the bit shifted out is 1. -/
theorem crcBit_eq (c : Word) : crcBit c = (c >>> 1) ^^^ (if c.getLsbD 0 then 0xEDB88320#32 else 0#32) := by
  rw [crcBit]
  split
  · rfl
  · exact BitVec.xor_zero.symm

/-- A constant times a bit is additive in the bit. -/
theorem ite_xor_zero {w : Nat} (a b : Bool) (p : BitVec w) :
    (if a ^^ b then p else 0#w) = (if a then p else 0#w) ^^^ (if b then p else 0#w) := by
  cases a <;> cases b <;> simp

theorem crcBit_xor (c d : Word) : crcBit (c ^^^ d) = crcBit c ^^^ crcBit d := by
  rw [crcBit_eq, crcBit_eq, crcBit_eq, BitVec.getLsbD_xor, BitVec.ushiftRight_xor_distrib, ite_xor_zero]
  ac_rfl

theorem crcByte_xor (c d : Word) (b e : Byte) : crcByte (c ^^^ d) (b ^^^ e) = crcByte c b ^^^ crcByte d e := by
  have hin : c ^^^ d ^^^ (b ^^^ e).setWidth 32 = (c ^^^ b.setWidth 32) ^^^ (d ^^^ e.setWidth 32) := by
    rw [BitVec.setWidth_xor]
    ac_rfl
  simp only [crcByte, crcRounds, hin, crcBit_xor]

/-- The register is additive in its start and the message together. -/
theorem foldl_crcByte_xor {x y : Bytes} (h : x.length = y.length) (c d : Word) :
    (List.zipWith (· ^^^ ·) x y).foldl crcByte (c ^^^ d) = x.foldl crcByte c ^^^ y.foldl crcByte d := by
  induction x generalizing y c d with
  | nil => rw [List.length_eq_zero_iff.1 h.symm]; rfl
  | cons b x ih =>
    obtain ⟨e, y, rfl⟩ := List.exists_cons_of_length_eq_add_one h.symm
    rw [List.zipWith_cons_cons, List.foldl_cons, crcByte_xor, ih (Nat.succ.inj h)]
    rfl

/-- With three messages every register starts at the same value. -/
theorem foldl_crcByte_xor_xor {x y z : Bytes} (hxy : x.length = y.length) (hyz : y.length = z.length) (c : Word) :
    (List.zipWith (· ^^^ ·) x (List.zipWith (· ^^^ ·) y z)).foldl crcByte c =
      x.foldl crcByte c ^^^ y.foldl crcByte c ^^^ z.foldl crcByte c := by
  have hlen : x.length = (List.zipWith (· ^^^ ·) y z).length := by
    rw [List.length_zipWith, ← hyz, Nat.min_self, hxy]
  have hfold := foldl_crcByte_xor hlen c (c ^^^ c)
  rwa [foldl_crcByte_xor hyz, BitVec.xor_self, BitVec.xor_zero, ← BitVec.xor_assoc] at hfold

theorem xor_const_xor_const_xor_const {w : Nat} (a b c k : BitVec w) :
    (a ^^^ k) ^^^ (b ^^^ k) ^^^ (c ^^^ k) = a ^^^ b ^^^ c ^^^ k :=
  calc (a ^^^ k) ^^^ (b ^^^ k) ^^^ (c ^^^ k) = a ^^^ b ^^^ c ^^^ k ^^^ (k ^^^ k) := by ac_rfl
    _ = a ^^^ b ^^^ c ^^^ k := by rw [BitVec.xor_self, BitVec.xor_zero]

/-- Bit 31 after a round tells the bit the round shifted out, since the polynomial has its top bit set. -/
theorem getLsbD_crcBit_top (c : Word) : (crcBit c).getLsbD 31 = c.getLsbD 0 := by
  rw [crcBit_eq, BitVec.getLsbD_xor, BitVec.getLsbD_ushiftRight, BitVec.getLsbD_of_ge c (1 + 31) (by decide)]
  cases c.getLsbD 0 <;> rfl

theorem crcBit_injective : Function.Injective crcBit := by
  intro c d h
  have hlow : c.getLsbD 0 = d.getLsbD 0 := by rw [← getLsbD_crcBit_top, h, getLsbD_crcBit_top]
  have hrest : c >>> 1 = d >>> 1 := by
    rw [crcBit_eq, crcBit_eq, hlow] at h
    exact (BitVec.xor_left_inj _).1 h
  refine BitVec.eq_of_getLsbD_eq fun i _ => ?_
  cases i with
  | zero => exact hlow
  | succ i => simpa [Nat.add_comm] using congrArg (·.getLsbD i) hrest

theorem crcRounds_injective : Function.Injective crcRounds := crcBit_injective.iterate 8

theorem crcByte_left_injective (b : Byte) : Function.Injective (crcByte · b) := fun _ _ h =>
  (BitVec.xor_left_inj _).1 (crcRounds_injective h)

theorem crcByte_right_injective (c : Word) : Function.Injective (crcByte c) := fun b e h => by
  have hw : b.setWidth 32 = e.setWidth 32 := (BitVec.xor_right_inj c).1 (crcRounds_injective h)
  simpa using congrArg (·.setWidth 8) hw

theorem foldl_crcByte_injective (x : Bytes) : Function.Injective (x.foldl crcByte) := by
  induction x with
  | nil => exact Function.injective_id
  | cons b x ih => exact ih.comp (crcByte_left_injective b)

/-- Settles O35: three initial registers, and three final constants, add to one. -/
theorem checksumIsAffine : Obligations.ChecksumIsAffine := by
  intro x y z hxy hyz
  rw [crc32, foldl_crcByte_xor_xor hxy hyz]
  exact (xor_const_xor_const_xor_const _ _ _ _).symm

/-- Settles O36: the byte is injective in the register before it, and the rest of the message in the register after it. -/
theorem checksumDetectsOneChangedByte : Obligations.ChecksumDetectsOneChangedByte := by
  intro a c b b' hb h
  simp only [crc32, List.foldl_append, List.foldl_cons] at h
  exact hb (crcByte_right_injective _ (foldl_crcByte_injective c ((BitVec.xor_left_inj _).1 h)))

/-- Settles O34: the spec's check values, evaluated. -/
theorem checksumCheckValues : Obligations.ChecksumCheckValues := by
  unfold Obligations.ChecksumCheckValues
  decide +kernel

end Sys2Proof.Machine

namespace Sys2Proof.Machine

/-! ## The frame escape (R141 to R144) -/

/-- Settles O40: both passes double what they escape, so each is undone exactly (R113). -/
theorem frameUnescapeInvertsFrameEscape : Obligations.FrameUnescapeInvertsFrameEscape := by
  intro P H M hH
  rw [funesc, fesc, unescape_escape hH (List.prefix_append H H)]
  exact unescape_escape (List.cons_ne_nil M []) (List.prefix_append [M] [M]) P

/-- A pass that doubles the boundary adds one boundary for each match (R112). -/
theorem length_escape_double {S : Bytes} (hS : S ≠ []) (d : Bytes) :
    (escape d S (S ++ S)).length = d.length + matchCount S 0 d * S.length := by
  have h := length_escape_add hS (List.append_ne_nil_of_left_ne_nil hS S) d
  rw [List.length_append, Nat.mul_add] at h
  omega

/-- The bounds of R143: each pass adds at most as many bytes as it is given, the second in tens. -/
theorem length_fesc_bounds (P : Bytes) (M : Byte) {H : Bytes} (hH : H.length = 10) :
    P.length ≤ (fesc P M H).length ∧ (fesc P M H).length ≤ 4 * P.length ∧
    (escape P [M] [M, M]).length ≤ 2 * P.length ∧ (fesc P M H).length ≤ 2 * (escape P [M] [M, M]).length ∧
    ((fesc P M H).length = 4 * P.length → 5 ∣ P.length) := by
  have hM : [M] ≠ [] := List.cons_ne_nil M []
  have hne : H ≠ [] := List.ne_nil_of_length_eq_add_one hH
  have mark : (escape P [M] [M, M]).length = P.length + matchCount [M] 0 P * 1 := length_escape_double hM P
  have header := length_escape_double hne (escape P [M] [M, M])
  have markLe : matchCount [M] 0 P * 1 ≤ P.length := matchCount_mul_length_le hM P
  have headerLe := matchCount_mul_length_le hne (escape P [M] [M, M])
  rw [← fesc] at header
  rw [hH] at header headerLe
  omega

/-- No pass of the frame unescape grows its input, since it puts a boundary where two stood. -/
theorem length_unescape_double_le (d S : Bytes) : (unescape d S (S ++ S)).length ≤ d.length := by
  by_cases hS : S = []
  · rw [hS, unescape, List.nil_append, escape_nil_left]
  · have h := length_escape_add (List.append_ne_nil_of_left_ne_nil hS S) hS d
    rw [List.length_append, Nat.mul_add] at h
    rw [unescape]
    omega

theorem length_funesc_le (X : Bytes) (M : Byte) (H : Bytes) : (funesc X M H).length ≤ X.length :=
  (length_unescape_double_le _ [M]).trans (length_unescape_double_le X H)

/-- A run of one byte that is whole copies of the boundary is doubled. -/
theorem escape_replicate (M : Byte) {k : Nat} (hk : k ≠ 0) (n : Nat) :
    escape (List.replicate (n * k) M) (List.replicate k M) (List.replicate k M ++ List.replicate k M) =
      List.replicate (2 * n * k) M := by
  have hS : List.replicate k M ≠ [] := by simpa using hk
  induction n with
  | zero => rw [Nat.mul_zero, Nat.zero_mul, List.replicate_zero, escape_nil]
  | succ n ih =>
    have hsplit : (n + 1) * k = k + n * k := by ring
    have hdouble : 2 * (n + 1) * k = k + k + 2 * n * k := by ring
    rw [hsplit, List.replicate_add, escape_match hS (List.append_ne_nil_of_left_ne_nil hS _), ih, hdouble,
      List.replicate_add, List.replicate_add]

/-- The bound of R143 is reached where the doubled marks are copies of the header. -/
theorem fesc_replicate (M : Byte) (j : Nat) :
    fesc (List.replicate (5 * j) M) M (List.replicate 10 M) = List.replicate (20 * j) M := by
  have mark : escape (List.replicate (5 * j) M) [M] [M, M] = List.replicate (2 * (5 * j)) M := by
    simpa using escape_replicate M (one_ne_zero) (5 * j)
  have tens : 2 * (5 * j) = j * 10 := by ring
  rw [fesc, mark, tens, escape_replicate M (by decide)]
  congr 1
  ring

/-! ## ENC (R140, R145) -/

theorem length_encodeFrame {m : Byte} {h : Bytes} (hh : h.length = 10) (v : Byte) (p : Bytes) :
    (encodeFrame m h v p).length = 35 + (fesc p m h).length := by
  rw [encodeFrame, length_frameBytes, hh]

/-- Under the invariant a payload is within the length bound (R6, I15). -/
theorem State.Inv.length_payload_le {s : State} (h : s.Inv) :
    (s.content .data).length ≤ s.params.dataCap ∧ s.params.dataCap ≤ 0xFFFFFFFF := by
  have hp := h.params
  obtain ⟨hlen, -⟩ := h.buffers .data
  simp only [Config.Params.legal, decide_eq_true_eq] at hp
  rw [length_content]
  exact ⟨hlen, by omega⟩

/-- A header of another length is refused after the marker check (R202). -/
theorem execEnc_headerLengthError {s : State} (hm : s.mkv = true) (hh : (s.content .hdr).length ≠ 10) :
    execEnc s = .next (s.finish .headerLengthError) := by
  rw [execEnc, if_neg (by simp [hm]), if_pos hh, raise_eq]

theorem execEnc_lengthBoundError {s : State} (hm : s.mkv = true) (hh : (s.content .hdr).length = 10)
    (hl : 0xFFFFFFFF < (s.content .data).length) : execEnc s = .next (s.finish .lengthBoundError) := by
  rw [execEnc, if_neg (by simp [hm]), if_neg (not_not.2 hh), if_pos hl, raise_eq]

section
variable {s : State} (hm : s.mkv = true) (hh : (s.content .hdr).length = 10)
  (hl : (s.content .data).length ≤ 0xFFFFFFFF)
include hm hh hl

theorem execEnc_capacityError (hc : s.params.wireCap < 35 + (fesc (s.content .data) s.marker (s.content .hdr)).length) :
    execEnc s = .next (s.finish .capacityError) := by
  rw [execEnc_stores hm hh hl]
  exact storeResult_overflows (by rwa [length_encodeFrame hh])

theorem execEnc_completes (hc : 35 + (fesc (s.content .data) s.marker (s.content .hdr)).length ≤ s.params.wireCap) :
    execEnc s = .next
      ((s.setBuf .wire (encodeFrame s.marker (s.content .hdr) s.fVer (s.content .data))).finish .ok) := by
  rw [execEnc_stores hm hh hl]
  exact storeResult_fits (by rwa [length_encodeFrame hh])

end

/-- What a payload is like that ENC refuses for its size (R145). -/
theorem size_of_execEnc_error {s t : State} (h : execEnc s = .next t) :
    (t.err = .lengthBoundError → 0xFFFFFFFF < (s.content .data).length) ∧
    (t.err = .capacityError → (s.content .hdr).length = 10 ∧
      s.params.wireCap < 35 + (fesc (s.content .data) s.marker (s.content .hdr)).length) := by
  cases hm : s.mkv with
  | false => cases (exec_unmarked (i := .enc) (by simp) hm).symm.trans h; simp
  | true =>
    by_cases hh : (s.content .hdr).length = 10
    · by_cases hl : (s.content .data).length ≤ 0xFFFFFFFF
      · by_cases hc : 35 + (fesc (s.content .data) s.marker (s.content .hdr)).length ≤ s.params.wireCap
        · cases (execEnc_completes hm hh hl hc).symm.trans h; simp
        · cases (execEnc_capacityError hm hh hl (by omega)).symm.trans h
          exact ⟨nofun, fun _ => ⟨hh, by omega⟩⟩
      · cases (execEnc_lengthBoundError hm hh (by omega)).symm.trans h
        simpa using hl
    · cases (execEnc_headerLengthError hm hh).symm.trans h; simp

/-- Settles O41: the bounds of both passes, and with them the size of the frame ENC stores. -/
theorem frameEscapeSize : Obligations.FrameEscapeSize := by
  refine ⟨fun P H M hH => length_fesc_bounds P M hH, fun M j => ?_, fun s t hs hcap h he => ?_, fun n hn => ?_,
    fun X H M => length_funesc_le X M H⟩
  · rw [fesc_replicate, List.length_replicate]
    ring
  · obtain ⟨hh, hover⟩ := (size_of_execEnc_error h).2 he
    obtain ⟨-, hX, -⟩ := length_fesc_bounds (s.content .data) s.marker hh
    obtain ⟨hP, -⟩ := hs.length_payload_le
    omega
  · rw [Config.defaultWireCap]
    omega

/-- Settles O39: ENC's checks one after the other; the invariant bounds the payload by DATA_CAP. -/
theorem encReportsTheFirstError : Obligations.EncReportsTheFirstError := by
  refine ⟨fun s t hs h he => ?_, ?_⟩
  · have hover := (size_of_execEnc_error h).1 he
    obtain ⟨hP, hcap⟩ := hs.length_payload_le
    omega
  · rintro s H P rfl rfl
    exact ⟨exec_unmarked (by simp), execEnc_headerLengthError, execEnc_lengthBoundError, execEnc_capacityError⟩

/-- Settles O38: the frame is stored whole, and storing it writes WIRE only. -/
theorem encWritesTheFrame : Obligations.EncWritesTheFrame := by
  rintro s H P X hm rfl hh rfl hl rfl hc
  have hfit : (encodeFrame s.marker (s.content .hdr) s.fVer (s.content .data)).length ≤ s.cap .wire := by
    rwa [length_encodeFrame hh]
  obtain ⟨hcontent, hlen, hrest, -⟩ := storeResult_stores hfit (storeResult_fits hfit)
  rw [length_encodeFrame hh] at hlen hrest
  exact ⟨_, execEnc_completes hm hh hl hc, rfl, hcontent, hlen, hrest, rfl⟩

/-! ## DEC (R150, R151, R152) -/

/-- The region is what stands between the first 24 bytes and the last 11 (R152). -/
theorem frameRegion_eq (w : Bytes) : frameRegion w = (w.drop 24).take (w.length - 35) := by
  rw [frameRegion, slice, Nat.sub_sub]

theorem execDec_incompleteFrameError {s : State} (hm : s.mkv = true) (hn : (s.content .wire).length < 35) :
    execDec s = .next (s.finish .incompleteFrameError) := by
  rw [execDec, if_neg (by simp [hm]), if_pos hn, raise_eq]

theorem execDec_capacityError {s : State} (hm : s.mkv = true) (hn : 35 ≤ (s.content .wire).length)
    (hc : s.params.dataCap < (frameData (s.content .wire) s.marker).length) :
    execDec s = .next (s.finish .capacityError) := by
  rw [execDec, if_neg (by simp [hm]), if_neg (Nat.not_lt.2 hn)]
  exact if_pos hc

/-- Settles O43: DEC's checks one after the other. -/
theorem decReportsTheFirstError : Obligations.DecReportsTheFirstError := by
  rintro s W rfl
  refine ⟨exec_unmarked (by simp), execDec_incompleteFrameError, fun hm hn hc => ?_⟩
  rw [← frameRegion_eq] at hc
  exact execDec_capacityError hm hn hc

theorem FrameParts.data {w : Bytes} {mk ver : Byte} {h ck ln x : Bytes} (f : FrameParts w mk ver h ck ln x) (m : Byte) :
    frameData w m = funesc x m h := by
  rw [frameData, f.region, f.header]

/-- DEC leaves the bytes after the header and after the payload (R9, R150). -/
theorem storeByte_writeFrame_frame (s : State) (w d : Bytes) {i : Nat} :
    ((frameHeader w).length ≤ i → (s.writeFrame w d).storeByte .hdr i = s.storeByte .hdr i) ∧
    (d.length ≤ i → (s.writeFrame w d).storeByte .data i = s.storeByte .data i) := by
  simp only [storeByte_writeFrame]
  refine ⟨fun hi => ?_, fun hi => ?_⟩
  · rw [storeByte_setBuf_other _ _ (by decide), storeByte_setBuf_frame _ _ _ hi]
  · rw [storeByte_setBuf_frame _ _ _ hi, storeByte_setBuf_other _ _ (by decide)]

/-- DEC's outputs are the four frame field registers, HDR and DATA (R150). -/
theorem writeFrame_frame (s : State) (w d : Bytes) :
    { s.writeFrame w d with
      fMark := s.fMark, fVer := s.fVer, fCrc := s.fCrc, fLen := s.fLen, hdr := s.hdr, data := s.data } = s := rfl

/-- Settles O42: DEC writes the parts of the frame, which stand where R140 puts them. -/
theorem decWritesTheFields : Obligations.DecWritesTheFields := by
  rintro s mk ver H CK LN X Z _ hm hw hh hck hln hz rfl hd
  have parts := frameParts (mk := mk) (ver := ver) (x := X) hh hck hln hz
  rw [← hw] at parts
  have hn : 35 ≤ (s.content .wire).length := by rw [parts.length]; omega
  rw [← parts.data] at hd ⊢
  refine ⟨_, execDec_writes hm hn hd, rfl, parts.mark, ?_, parts.version, parts.checksum, parts.lengthField, ?_,
    fun i hi => ?_, fun i hi => ?_, congrArg (·.finish .ok) (writeFrame_frame s _ _)⟩
  · rw [content_finish, content_writeFrame_hdr, parts.header]
  · rw [content_finish, content_writeFrame_data]
  · rw [storeByte_finish]
    exact (storeByte_writeFrame_frame s _ _).1 (by rwa [parts.header, hh])
  · rw [storeByte_finish]
    exact (storeByte_writeFrame_frame s _ _).2 hi

/-! ## The trailing copies (R151) -/

theorem slice_append_left {w : Bytes} (z : Bytes) {i j : Nat} (hij : i ≤ j) (hj : j ≤ w.length) :
    slice (w ++ z) i j = slice w i j := by
  rw [slice, slice, List.drop_append_of_le_length (by omega), List.take_append_of_le_length (by simp; omega)]

/-- Every field DEC reads stands before the last eleven bytes of a frame. -/
theorem fields_append {a z : Bytes} (ha : 24 ≤ a.length) (hz : z.length = 11) :
    frameMark (a ++ z) = frameMark a ∧ frameHeader (a ++ z) = frameHeader a ∧ frameVersion (a ++ z) = frameVersion a ∧
    frameChecksum (a ++ z) = frameChecksum a ∧ frameLength (a ++ z) = frameLength a ∧
    frameRegion (a ++ z) = a.drop 24 := by
  refine ⟨?_, ?_, ?_, ?_, ?_, ?_⟩
  · exact List.getD_append _ _ _ _ (by omega)
  · exact slice_append_left z (by omega) (by omega)
  · exact List.getD_append _ _ _ _ (by omega)
  · rw [frameChecksum, slice_append_left z (by omega) (by omega), frameChecksum]
  · rw [frameLength, slice_append_left z (by omega) (by omega), frameLength]
  · rw [frameRegion_eq, List.drop_append_of_le_length ha, List.length_append, hz]
    exact List.take_left' (by simp)

section
variable {a z z' : Bytes} (ha : 24 ≤ a.length) (hz : z.length = 11) (hz' : z'.length = 11)
include ha hz hz'

theorem frameData_append_congr (m : Byte) : frameData (a ++ z) m = frameData (a ++ z') m := by
  obtain ⟨-, hheader, -, -, -, hregion⟩ := fields_append ha hz
  obtain ⟨-, hheader', -, -, -, hregion'⟩ := fields_append ha hz'
  rw [frameData, frameData, hheader, hheader', hregion, hregion']

theorem writeFrame_append_congr (s : State) (d : Bytes) : s.writeFrame (a ++ z) d = s.writeFrame (a ++ z') d := by
  obtain ⟨hmark, hheader, hversion, hchecksum, hlength, -⟩ := fields_append ha hz
  obtain ⟨hmark', hheader', hversion', hchecksum', hlength', -⟩ := fields_append ha hz'
  rw [State.writeFrame, State.writeFrame, hmark, hmark', hheader, hheader', hversion, hversion', hchecksum, hchecksum',
    hlength, hlength']

end

/-- With WIRE's last eleven bytes changed DEC does the same. -/
theorem execDec_withBuf_wire {s t : State} {a z z' : Bytes} {b : Buffer} (hw : s.content .wire = a ++ z)
    (hw' : (s.withBuf .wire b).content .wire = a ++ z') (hz : z.length = 11) (hz' : z'.length = 11)
    (h : execDec s = .next t) : execDec (s.withBuf .wire b) = .next (t.withBuf .wire b) := by
  have hlen : ((s.withBuf .wire b).content .wire).length = (s.content .wire).length := by simp [hw, hw', hz, hz']
  cases hm : s.mkv with
  | false =>
    cases (exec_unmarked (i := .dec) (by simp) hm).symm.trans h
    exact exec_unmarked (i := .dec) (by simp) hm
  | true =>
    by_cases hn : 35 ≤ (s.content .wire).length
    · have ha : 24 ≤ a.length := by rw [hw, List.length_append] at hn; omega
      have hdata := frameData_append_congr ha hz' hz s.marker
      rw [← hw, ← hw'] at hdata
      by_cases hc : (frameData (s.content .wire) s.marker).length ≤ s.params.dataCap
      · cases (execDec_writes hm hn hc).symm.trans h
        rw [execDec_writes (by simpa using hm) (hlen ▸ hn) (by rwa [← hdata] at hc), withBuf_marker, hdata, hw', hw,
          writeFrame_append_congr ha hz' hz]
        rfl
      · cases (execDec_capacityError hm hn (by omega)).symm.trans h
        rw [← hdata] at hc
        exact execDec_capacityError (by simpa using hm) (hlen ▸ hn) (Nat.lt_of_not_le hc)
    · cases (execDec_incompleteFrameError hm (by omega)).symm.trans h
      exact execDec_incompleteFrameError hm (by omega)

/-! ## VAL on decoded fields (R170) -/

/-- VAL's code with a marker `m` configured, from the fields it checks (R170). -/
def valCode (m mark : Byte) (headerLen : Nat) (ver : Byte) (ck : Word) (ln : BitVec 64) (d : Bytes) : Status :=
  if mark ≠ m then .markerMismatchError
  else if headerLen ≠ 10 then .headerLengthError
  else if ver = 0#8 then .versionRangeError
  else if crc32 d ≠ ck then .checksumMismatchError
  else if BitVec.ofNat 64 d.length ≠ ln then .lengthMismatchError
  else .ok

theorem version_inRange_iff (v : Byte) : (1 ≤ v.toNat ∧ v.toNat ≤ 255) ↔ v ≠ 0#8 := by
  bv_omega

/-- With a marker configured VAL writes that code and nothing else. -/
theorem execVal_marked {s : State} (hm : s.mkv = true) : execVal s =
    .next (s.finish
      (valCode s.marker s.fMark (s.content .hdr).length s.fVer s.fCrc s.fLen (s.content .data))) := by
  have hheader : s.hdr.len = (s.content .hdr).length := (length_content s .hdr).symm
  have hdata : s.data.len = (s.content .data).length := (length_content s .data).symm
  rw [execVal, if_neg (by simp [hm]), valCode]
  simp only [version_inRange_iff, not_not, hheader, hdata]
  split_ifs <;> rfl

theorem execVal_accepts {s : State} (hm : s.mkv = true)
    (hcode : valCode s.marker s.fMark (s.content .hdr).length s.fVer s.fCrc s.fLen (s.content .data) = .ok) :
    execVal s = .next (s.finish .ok) := by
  rw [execVal_marked hm, hcode]

/-- VAL does not read WIRE. -/
theorem execVal_withBuf_wire {s t : State} (b : Buffer) (h : execVal s = .next t) :
    execVal (s.withBuf .wire b) = .next (t.withBuf .wire b) := by
  cases hm : s.mkv with
  | false =>
    cases (exec_unmarked (i := .val) (by simp) hm).symm.trans h
    exact exec_unmarked (i := .val) (by simp) hm
  | true =>
    cases (execVal_marked hm).symm.trans h
    exact execVal_marked (by simpa using hm)

/-- Settles O44: DEC and VAL do the same with the other WIRE, which DEC keeps. -/
theorem trailingCopiesAreNotRead : Obligations.TrailingCopiesAreNotRead := by
  intro s s' t A Z Z' hw hw' hz hz' hs h
  have hs' : s' = s.withBuf .wire s'.wire := by rw [← hs]; rfl
  have hwire : t.wire = s.wire := (commandFrame .dec s t h).1 .wire (by decide)
  refine ⟨t.withBuf .wire s'.wire, ?_, ?_, fun u hu => ⟨u.withBuf .wire s'.wire, execVal_withBuf_wire _ hu, rfl⟩⟩
  · rw [hs'] at hw' ⊢
    exact execDec_withBuf_wire hw hw' hz hz' h
  · rw [← hwire]
    rfl

/-! ## VAL after DEC (R156, R235) -/

/-- A command that ends with code 0 has committed its outputs. -/
theorem commits_of_exec_ok {i : Instr} {s t : State} (h : exec i s = .next t) (ht : t.err = .ok) :
    ∃ u, Commits s i u ∧ t = u.finish .ok := by
  rcases exec_cases i s with ⟨c, hc, _, e⟩ | ⟨u, hu, e⟩ <;> cases e.symm.trans h
  · exact absurd ht hc
  · exact ⟨u, hu, rfl⟩

/-- The parts of a frame whose checksum and length field are written big-endian. -/
theorem frameParts_be {mk ver : Byte} {h : Bytes} (ck : Word) (ln : BitVec 64) {x z : Bytes} (hh : h.length = 10)
    (hz : z.length = 11) :
    FrameParts ([mk] ++ h ++ [ver] ++ be32 ck ++ be64 ln ++ x ++ z) mk ver h (be32 ck) (be64 ln) x :=
  frameParts hh (length_be32 ck) (length_be64 ln) hz

theorem FrameParts.checksum_eq {w : Bytes} {mk ver : Byte} {h ln x : Bytes} {ck : Word}
    (f : FrameParts w mk ver h (be32 ck) ln x) : frameChecksum w = ck :=
  BitVec.eq_of_toNat_eq (f.checksum.trans (fromBe_be32 ck))

theorem FrameParts.lengthField_eq {w : Bytes} {mk ver : Byte} {h ck x : Bytes} {ln : BitVec 64}
    (f : FrameParts w mk ver h ck (be64 ln) x) : frameLength w = ln :=
  BitVec.eq_of_toNat_eq (f.lengthField.trans (fromBe_be64 ln))

theorem frameParts_frameBytes {h : Bytes} (hh : h.length = 10) (m v : Byte) (c : Word) (n : BitVec 64) (x : Bytes) :
    FrameParts (frameBytes m h v c n x) m v h (be32 c) (be64 n) x := by
  rw [frameBytes, List.append_assoc _ h [m]]
  exact frameParts_be c n hh (by simp [hh])

/-- After a DEC with code 0, DATA holds the unescaped region and VAL judges the frame's own fields. -/
theorem execVal_after_execDec {s t u : State} {mk ver : Byte} {h x : Bytes} {ck : Word} {ln : BitVec 64}
    (f : FrameParts (s.content .wire) mk ver h (be32 ck) (be64 ln) x) (hd : exec .dec s = .next t) (ht : t.err = .ok)
    (hv : exec .val t = .next u) :
    t.content .data = funesc x s.marker h ∧ u.err = valCode s.marker mk 10 ver ck ln (funesc x s.marker h) := by
  obtain ⟨_, hc, rfl⟩ := commits_of_exec_ok hd ht
  cases hc with
  | dec hm hn _ =>
    cases (execVal_marked (s := (s.writeFrame _ _).finish .ok) hm).symm.trans hv
    have hheader : (frameHeader (s.content .wire)).length = 10 := length_frameHeader (by omega)
    simp [f.data, f.mark, f.version, f.checksum_eq, f.lengthField_eq, hheader, -length_content]

theorem ne_zero_of_one_le_toNat {v : Byte} (h : 1 ≤ v.toNat) : v ≠ 0#8 := by
  rintro rfl
  simp at h

/-- Below 2^64 the length VAL compares is the whole length (log 14). -/
theorem ofNat64_inj {m n : Nat} (hm : m < 2 ^ 64) (hn : n < 2 ^ 64) :
    BitVec.ofNat 64 m = BitVec.ofNat 64 n ↔ m = n := by
  rw [← BitVec.toNat_inj, BitVec.toNat_ofNat, BitVec.toNat_ofNat, Nat.mod_eq_of_lt hm, Nat.mod_eq_of_lt hn]

/-- Settles O46: DEC finds the changed region by position, and VAL judges what it unescapes to. -/
theorem tamperedRegionVerdict : Obligations.TamperedRegionVerdict := by
  rintro s t u H P X' _ v hm hH hv hP hX rfl hcap hw hd hval
  have f := frameParts_frameBytes hH s.marker v (crc32 P) (BitVec.ofNat 64 P.length) X'
  rw [← hw] at f
  have ht : t.err = .ok := by
    rw [← f.data] at hcap
    cases (execDec_writes hm (by rw [f.length]; omega) hcap).symm.trans hd
    rfl
  obtain ⟨-, hX4, -⟩ := length_fesc_bounds P s.marker hH
  have hle := length_funesc_le X' s.marker H
  have hlen := ofNat64_inj (m := (funesc X' s.marker H).length) (n := P.length) (by omega) (by omega)
  have hver := ne_zero_of_one_le_toNat hv
  obtain ⟨-, hcode⟩ := execVal_after_execDec f hd ht hval
  simp only [valCode, ne_eq, hver, hlen, not_true_eq_false, if_false] at hcode
  exact ⟨ht, fun e => by simp [hcode, e], fun _ => hcode⟩

/-- Settles O47: VAL's checks on the one changed field, the others passing. -/
theorem tamperedLeadingFieldVerdict : Obligations.TamperedLeadingFieldVerdict := by
  intro s t u H P v mk ver ck ln h Z hm hH hh hZ hv hw hd ht hval
  have f := frameParts_be (mk := mk) (ver := ver) (x := fesc P s.marker H) ck ln hh hZ
  rw [← hw] at f
  have hver := ne_zero_of_one_le_toNat hv
  have hback : funesc (fesc P s.marker H) s.marker H = P :=
    frameUnescapeInvertsFrameEscape P H s.marker (List.ne_nil_of_length_eq_add_one hH)
  obtain ⟨-, hcode⟩ := execVal_after_execDec f hd ht hval
  rw [hcode]
  refine ⟨?_, ?_, ?_, ?_, ?_, ?_, ?_⟩
  · exact fun hmk => if_pos hmk
  · rintro rfl rfl
    simp [valCode]
  · rintro rfl hver rfl rfl rfl
    simp [valCode, ne_zero_of_one_le_toNat hver, hback]
  · rintro rfl rfl hck rfl
    simp [valCode, hver, hback, Ne.symm hck]
  · rintro rfl rfl rfl hln rfl
    simp [valCode, hver, hback, Ne.symm hln]
  · rintro rfl rfl rfl rfl hsame
    simp [valCode, hver, hsame]
  · rintro rfl rfl rfl hcrc
    simp [valCode, hver, hcrc]

/-- Settles O48: WIRE's mark and header are the ones ENC used, and DEC unescapes with the marker it finds. -/
theorem markerChangeBetweenEncodeAndValidate : Obligations.MarkerChangeBetweenEncodeAndValidate := by
  intro s t u w m henc ht hne hdec hu hval
  obtain ⟨_, hc, rfl⟩ := commits_of_exec_ok henc ht
  cases hc with
  | enc hm hh hl hfit =>
    have f := frameParts_frameBytes hh s.marker s.fVer (crc32 (s.content .data))
      (BitVec.ofNat 64 (s.content .data).length) (fesc (s.content .data) s.marker (s.content .hdr))
    rw [← encodeFrame, ← content_setBuf s .wire (encodeFrame _ _ _ _), ← content_finish _ .ok,
      ← content_withMarker m true] at f
    obtain ⟨hdata, hcode⟩ := execVal_after_execDec f hdec hu hval
    exact ⟨hdata, hcode.trans (if_pos (Ne.symm hne))⟩

/-! ## RUN ENC, RUN DEC, RUN VAL (R155; log 4, log 5) -/

/-- `s` after RUN's CMD write of the command `i`, the operations `q` still to do after its POLL (R91). -/
def State.issued (s : State) (i : Instr) (q : List HostOp) : State :=
  (s.withQueue (pollStatus s.params.base :: q)).accept (encode i)

/-- `u` after a completion with code 0 and the POLL that follows it, the operations `q` still to do (R91). -/
def State.polled (u : State) (q : List HostOp) : State :=
  ((u.finish .ok).withQueue q).reply (u.finish .ok).statusWord

@[simp] theorem content_issued (s : State) (i : Instr) (q : List HostOp) (k : BufId) :
    (s.issued i q).content k = s.content k := content_congr (by cases k <;> rfl) rfl

@[simp] theorem content_polled (u : State) (q : List HostOp) (k : BufId) : (u.polled q).content k = u.content k :=
  content_congr (by cases k <;> rfl) rfl

@[simp] theorem issued_marker (s : State) (i : Instr) (q : List HostOp) : (s.issued i q).marker = s.marker := rfl
@[simp] theorem issued_fMark (s : State) (i : Instr) (q : List HostOp) : (s.issued i q).fMark = s.fMark := rfl
@[simp] theorem issued_fVer (s : State) (i : Instr) (q : List HostOp) : (s.issued i q).fVer = s.fVer := rfl
@[simp] theorem issued_fCrc (s : State) (i : Instr) (q : List HostOp) : (s.issued i q).fCrc = s.fCrc := rfl
@[simp] theorem issued_fLen (s : State) (i : Instr) (q : List HostOp) : (s.issued i q).fLen = s.fLen := rfl
@[simp] theorem polled_fMark (u : State) (q : List HostOp) : (u.polled q).fMark = u.fMark := rfl
@[simp] theorem polled_fVer (u : State) (q : List HostOp) : (u.polled q).fVer = u.fVer := rfl
@[simp] theorem polled_fCrc (u : State) (q : List HostOp) : (u.polled q).fCrc = u.fCrc := rfl
@[simp] theorem polled_fLen (u : State) (q : List HostOp) : (u.polled q).fLen = u.fLen := rfl

/-- The three steps of a RUN take `s` to `t`: the command ended with code 0, the POLL read that code, the host has `q`
still to do, and the marker and the parameters stay. -/
structure State.RunsOk (s : State) (q : List HostOp) (t : State) : Prop where
  run : Host.Core.run core 3 s = .next t
  idle : t.busy = false
  turns : t.turns = []
  queue : t.hostQueue = q
  status : t.err = .ok ∧ t.done = true
  reply : ∃ a : Word, t.replies = a :: s.replies ∧ a.extractLsb' 8 4 = 0#4
  params : t.params = s.params
  marker : t.marker = s.marker ∧ t.mkv = s.mkv

section
variable {s : State} {q : List HostOp} (hb : s.busy = false) (ht : s.turns = [])
include hb ht

/-- A RUN of a command that ends with code 0. -/
theorem runsOk_polled {u : State} {i : Instr} (hi : i ≠ .setmk)
    (hq : s.hostQueue = runWord s.params.base (encode i) ++ q) (hu : exec i (s.issued i q) = .next (u.finish .ok)) :
    s.RunsOk q (u.polled q) := by
  obtain ⟨_, hrun, hsteps⟩ := runIssuesCompletesAndPolls s (encode i) q hb ht hq
  have hdecode : decode (s.issued i q).pending = .ok i := decode_encode i
  cases ((runPending_of_decode hdecode).trans hu).symm.trans hrun
  obtain ⟨-, -, -, hmarker, -, -, -, -, -, -, -, hparams, -, -, hturns, hreplies⟩ := commandFrame i _ _ hu
  have hreply : u.replies = s.replies := hreplies
  refine ⟨hsteps.trans ?_, rfl, hturns.trans ht, rfl, ⟨rfl, rfl⟩, ⟨(u.finish .ok).statusWord, congrArg _ hreply, ?_⟩,
    hparams, hmarker hi⟩
  · rw [← hreply]
    rfl
  · exact (statusWord_fields (u.finish .ok)).2.1

/-- RUN ENC leaves the frame in WIRE (R145). -/
theorem runsOk_enc (hq : s.hostQueue = runWord s.params.base (encode .enc) ++ q) (hm : s.mkv = true)
    (hh : (s.content .hdr).length = 10) (hl : (s.content .data).length ≤ 0xFFFFFFFF)
    (hc : 35 + (fesc (s.content .data) s.marker (s.content .hdr)).length ≤ s.params.wireCap) :
    ∃ t, s.RunsOk q t ∧ t.content .wire = encodeFrame s.marker (s.content .hdr) s.fVer (s.content .data) := by
  rw [← content_issued s .enc q .hdr] at hh hc ⊢
  rw [← content_issued s .enc q .data] at hl hc ⊢
  exact ⟨_, runsOk_polled hb ht (by decide) hq (execEnc_completes hm hh hl hc),
    (content_polled _ q .wire).trans (content_setBuf ..)⟩

/-- RUN DEC leaves the parts of WIRE's frame in its outputs (R150). -/
theorem runsOk_dec (hq : s.hostQueue = runWord s.params.base (encode .dec) ++ q) (hm : s.mkv = true) {mk ver : Byte}
    {h x : Bytes} {ck : Word} {ln : BitVec 64} (f : FrameParts (s.content .wire) mk ver h (be32 ck) (be64 ln) x)
    (hc : (funesc x s.marker h).length ≤ s.params.dataCap) :
    ∃ t, s.RunsOk q t ∧ t.content .hdr = h ∧ t.content .data = funesc x s.marker h ∧
      t.fMark = mk ∧ t.fVer = ver ∧ t.fCrc = ck ∧ t.fLen = ln := by
  have hw := content_issued s .dec q .wire
  have hdec := execDec_writes (s := s.issued .dec q) hm (by rw [hw, f.length]; omega) (by rw [hw, f.data]; exact hc)
  rw [hw, f.data] at hdec
  exact ⟨_, runsOk_polled hb ht (by decide) hq hdec,
    by simp [f.header, f.mark, f.version, f.checksum_eq, f.lengthField_eq]⟩

/-- RUN VAL of fields that pass its checks leaves them (R170). -/
theorem runsOk_val (hq : s.hostQueue = runWord s.params.base (encode .val) ++ q) (hm : s.mkv = true)
    (hcode : valCode s.marker s.fMark (s.content .hdr).length s.fVer s.fCrc s.fLen (s.content .data) = .ok) :
    ∃ t, s.RunsOk q t ∧ (∀ k, t.content k = s.content k) ∧
      t.fMark = s.fMark ∧ t.fVer = s.fVer ∧ t.fCrc = s.fCrc ∧ t.fLen = s.fLen := by
  have hval : execVal (s.issued .val q) = .next ((s.issued .val q).finish .ok) :=
    execVal_accepts hm (by simpa using hcode)
  exact ⟨_, runsOk_polled hb ht (by decide) hq hval, by simp⟩

end

/-- The frame fits WIRE by itself or because WIRE_CAP is the default (R143). -/
theorem State.Inv.frame_fits {s : State} (h : s.Inv) (hh : (s.content .hdr).length = 10)
    (hc : 35 + (fesc (s.content .data) s.marker (s.content .hdr)).length ≤ s.params.wireCap ∨
      (s.params.wireCap = Config.defaultWireCap s.params.dataCap ∧ s.params.dataCap ≤ 1073741815)) :
    35 + (fesc (s.content .data) s.marker (s.content .hdr)).length ≤ s.params.wireCap := by
  obtain hc | ⟨hdefault, hcap⟩ := hc
  · exact hc
  · obtain ⟨-, hX, -⟩ := length_fesc_bounds (s.content .data) s.marker hh
    obtain ⟨hP, -⟩ := h.length_payload_le
    rw [hdefault, Config.defaultWireCap]
    omega

/-- VAL accepts the fields ENC writes for a payload, with a version of at least 1 (R170). -/
theorem valCode_encoded (m : Byte) {v : Byte} (hv : 1 ≤ v.toNat) (p : Bytes) :
    valCode m m 10 v (crc32 p) (BitVec.ofNat 64 p.length) p = .ok := by
  simp [valCode, ne_zero_of_one_le_toNat hv]

/-- Settles O45: each RUN ends with code 0, and DEC finds in WIRE the parts ENC put there. -/
theorem frameRoundTrip : Obligations.FrameRoundTrip := by
  rintro s H P hs hb ht hm rfl hh hv rfl hc hq
  obtain ⟨hP, hcap⟩ := hs.length_payload_le
  have hback : funesc (fesc (s.content .data) s.marker (s.content .hdr)) s.marker (s.content .hdr) = s.content .data :=
    frameUnescapeInvertsFrameEscape _ _ _ (List.ne_nil_of_length_eq_add_one hh)
  have parts := frameParts_frameBytes hh s.marker s.fVer (crc32 (s.content .data))
    (BitVec.ofNat 64 (s.content .data).length) (fesc (s.content .data) s.marker (s.content .hdr))
  rw [List.append_assoc] at hq
  obtain ⟨t₁, enc, hwire⟩ := runsOk_enc hb ht hq hm hh (by omega) (hs.frame_fits hh hc)
  obtain ⟨hmarker₁, hmkv₁⟩ := enc.marker
  rw [← encodeFrame, ← hwire] at parts
  obtain ⟨t₂, dec, hhdr, hdata, hmark, hver, hcrc, hlen⟩ := runsOk_dec (q := runWord s.params.base (encode .val))
    enc.idle enc.turns (by rw [enc.queue, enc.params]; rfl) (hmkv₁.trans hm) parts
    (by rw [hmarker₁, hback, enc.params]; exact hP)
  obtain ⟨hmarker₂, hmkv₂⟩ := dec.marker
  rw [hmarker₁] at hdata hmarker₂
  rw [hback] at hdata
  obtain ⟨t, val, hcontent, hmark', hver', hcrc', hlen'⟩ := runsOk_val (q := []) dec.idle dec.turns
    (by rw [dec.queue, dec.params, enc.params]; rfl) (hmkv₂.trans (hmkv₁.trans hm))
    (by rw [hmarker₂, hmark, hhdr, hver, hcrc, hlen, hdata, hh]; exact valCode_encoded _ hv _)
  obtain ⟨a, ha, ha0⟩ := enc.reply
  obtain ⟨b, hb, hb0⟩ := dec.reply
  obtain ⟨c, hc, hc0⟩ := val.reply
  obtain ⟨herr, hdone⟩ := val.status
  refine ⟨t, a, b, c, ?_, by rw [hc, hb, ha], ha0, hb0, hc0, herr, val.idle, hdone, (hcontent .data).trans hdata,
    (hcontent .hdr).trans hhdr, hver'.trans hver, hmark'.trans hmark, hcrc'.trans hcrc, ?_, val.queue⟩
  · rw [core_run_add 3 6 enc.run, core_run_add 3 3 dec.run, val.run]
  · rw [hlen', hlen, BitVec.toNat_ofNat]
    exact Nat.mod_eq_of_lt (by omega)

end Sys2Proof.Machine

namespace Sys2Proof.Machine

/-! ## VAL's code in every state (R170, R172) -/

/-- The code VAL ends with, from the state alone: the configuration first, then the checks (R170). -/
def State.valStatus (s : State) : Status :=
  if s.mkv = false then .notConfiguredError
  else valCode s.marker s.fMark s.hdr.len s.fVer s.fCrc s.fLen (s.content .data)

/-- VAL ends with that code and changes nothing but STATUS, in every state. -/
theorem exec_val_eq (s : State) : exec .val s = .next (s.finish s.valStatus) := by
  cases hm : s.mkv with
  | false => rw [exec_unmarked (by simp) hm, State.valStatus, if_pos hm]
  | true =>
    have hheader : (s.content .hdr).length = s.hdr.len := length_content s .hdr
    rw [State.valStatus, if_neg (by simp [hm]), ← hheader]
    exact execVal_marked hm

/-- VAL's code depends on nothing that a completion writes. -/
@[simp] theorem valStatus_finish (s : State) (c : Status) : (s.finish c).valStatus = s.valStatus := by
  simp [State.valStatus]

/-! ### HeaderLengthError after DEC (R172) -/

theorem valCode_ten_ne_headerLengthError (m mark ver : Byte) (ck : Word) (ln : BitVec 64) (d : Bytes) :
    valCode m mark 10 ver ck ln d ≠ .headerLengthError := by
  unfold valCode
  split_ifs <;> simp_all

/-- The header check is the only one that reports HeaderLengthError. -/
theorem hdr_len_ne_of_valStatus {s : State} (h : s.valStatus = .headerLengthError) : s.hdr.len ≠ 10 := by
  intro hlen
  rw [State.valStatus, hlen] at h
  split at h
  · cases h
  · exact valCode_ten_ne_headerLengthError _ _ _ _ _ _ h

/-- A DEC that ends with code 0 has stored a frame's ten-byte header (R150). -/
theorem hdr_len_of_dec_ok {s t : State} (h : exec .dec s = .next t) (ht : t.err = .ok) : t.hdr.len = 10 := by
  obtain ⟨_, hc, rfl⟩ := commits_of_exec_ok h ht
  cases hc with
  | dec _ hn _ =>
    have hlen := length_content (s.writeFrame (s.content .wire) (frameData (s.content .wire) s.marker)) .hdr
    rw [content_writeFrame_hdr, length_frameHeader (by omega)] at hlen
    exact hlen.symm

theorem hdr_len_ne_of_exec_val {s t : State} (h : exec .val s = .next t) (ht : t.err = .headerLengthError) :
    s.hdr.len ≠ 10 := by
  cases (exec_val_eq s).symm.trans h
  exact hdr_len_ne_of_valStatus ht

/-- Settles O51: DEC stores ten bytes of header, and VAL reports HeaderLengthError for another length only. -/
theorem decodedFramePassesTheHeaderCheck : Obligations.DecodedFramePassesTheHeaderCheck :=
  ⟨fun _ _ => hdr_len_of_dec_ok, fun _ _ => hdr_len_ne_of_exec_val,
    fun _ _ _ hd ht hv he => hdr_len_ne_of_exec_val hv he (hdr_len_of_dec_ok hd ht)⟩

/-! ### The five checks (R170) -/

/-- Below 2^64 a length zero-extended to 64 bits is F_LEN exactly when it is F_LEN's value (log 14). -/
theorem ofNat64_eq_iff {n : Nat} (hn : n < 2 ^ 64) (ln : BitVec 64) : BitVec.ofNat 64 n = ln ↔ n = ln.toNat := by
  rw [← ofNat64_inj hn ln.isLt, BitVec.ofNat_toNat, BitVec.setWidth_eq]

theorem valCode_eq_verdict {d : Bytes} (hd : d.length < 2 ^ 64) (m mark : Byte) (headerLen : Nat) (ver : Byte) (ck : Word)
    (ln : BitVec 64) : valCode m mark headerLen ver ck ln d = verdict m mark headerLen ver ck ln d := by
  simp only [valCode, verdict, ne_eq, ofNat64_eq_iff hd]

/-- Settles O49: VAL's code is the verdict, since the invariant bounds LEN[DATA], and a completion does not change it. -/
theorem valReportsTheFirstFailingCheck : Obligations.ValReportsTheFirstFailingCheck := by
  refine ⟨rfl, fun s hs => ?_, fun s t h => ?_⟩
  · obtain ⟨hdata, hcap⟩ := hs.length_payload_le
    rw [← valCode_eq_verdict (by omega)]
    exact exec_val_eq s
  · cases (exec_val_eq s).symm.trans h
    rw [exec_val_eq, valStatus_finish]
    rfl

/-- Settles O50: the fields are those of an encoded payload, which VAL accepts. -/
theorem valAcceptsAValidFrame : Obligations.ValAcceptsAValidFrame := by
  intro s hm hmark hh hver hcrc hlen
  have hfLen : BitVec.ofNat 64 (s.content .data).length = s.fLen :=
    (ofNat64_eq_iff (hlen ▸ s.fLen.isLt) s.fLen).2 hlen
  refine execVal_accepts hm ?_
  rw [hmark, hh, ← hcrc, ← hfLen]
  exact valCode_encoded _ hver _

end Sys2Proof.Machine

namespace Sys2Proof.Machine

/-! ## No step stops (R205, R206) -/

/-- Settles O8: a host's access and a reset have no other outcome, and on the engine's turn the command in flight, legal or
not, ends its flight (`step_completes_ends`). -/
theorem everyStepAnswersANextState : Obligations.EveryStepAnswersANextState := by
  intro s
  cases hn : s.nextTurn with
  | host => exact ⟨_, step_host hn⟩
  | reset => exact ⟨_, step_reset hn⟩
  | engine =>
    cases hb : s.busy with
    | false => exact ⟨_, step_engine_idle hb hn⟩
    | true =>
      obtain ⟨t, ht, -⟩ := step_completes_ends hb hn
      exact ⟨t, ht⟩

end Sys2Proof.Machine

namespace Sys2Proof.Machine

/-! ## The reset values (R230) -/

/-- Some instance's state after a reset, with any host: what `State.reset` and `State.resetBlock` have in common. -/
def State.IsFresh (t : State) : Prop :=
  ∃ (p : Config.Params) (e : Nat) (q : List HostOp) (turns : List Turn) (replies : List Word),
    t = { State.afterReset p e with hostQueue := q, turns := turns, replies := replies }

theorem isFresh_of_reset {t : State} (h : t = State.reset ∨ ∃ s : State, t = s.resetBlock) : t.IsFresh := by
  rcases h with rfl | ⟨s, rfl⟩
  · exact ⟨_, _, _, _, _, rfl⟩
  · exact ⟨_, _, _, _, _, rfl⟩

/-- After a reset every LEN is 0, so every content is empty, though the storage may hold anything (R33, R34). -/
theorem State.IsFresh.buffers_empty {t : State} (h : t.IsFresh) (k : BufId) : (t.buf k).len = 0 ∧ t.content k = [] := by
  obtain ⟨p, e, q, turns, replies, rfl⟩ := h
  have hlen := congrArg Buffer.len (buf_afterReset p e k)
  exact ⟨hlen, List.eq_nil_of_length_eq_zero ((length_content ..).trans hlen)⟩

theorem State.IsFresh.statusWord_eq_zero {t : State} (h : t.IsFresh) : t.statusWord = 0x00000000#32 := by
  obtain ⟨p, e, q, turns, replies, rfl⟩ := h
  show (0#20 ++ Status.ok.code ++ 0#3 ++ bit false ++ bit false ++ bit false ++ bit false ++ bit false : Word) = 0#32
  decide

theorem readReg_id (s : State) : readReg .id s = (0x46524D07#32, s) := by
  cases h : s.busy with
  | false => exact readReg_idle h .id
  | true => exact readReg_locked h .id

/-- Settles O56: either reset leaves a fresh state, whose registers hold their reset values by definition. -/
theorem resetLeavesTheResetValues : Obligations.ResetLeavesTheResetValues := by
  intro t ht
  have hfresh := isFresh_of_reset ht
  have hbufs := hfresh.buffers_empty
  have hstatus : readReg .status t = (0x00000000#32, t) := by rw [readReg_status, hfresh.statusWord_eq_zero]
  have hid := readReg_id t
  obtain ⟨p, e, q, turns, replies, rfl⟩ := hfresh
  exact ⟨rfl, rfl, rfl, rfl, rfl, rfl, rfl, rfl, rfl, rfl, rfl, rfl, rfl, rfl, hbufs, hstatus, hid⟩

end Sys2Proof.Machine
